-- ==== Sys2Proof/Word.lean ====
section
/-! DEFINITION. The word types of the block (00_scope.md R9, 30_encoding.md R80). -/

namespace Sys2Proof

/-- An operation word or a response word: 64 bits (R80, R91). -/
abbrev Word := BitVec 64

/-- A halfword of the descriptor table, a counter, a duration: 16 bits (R9, R95). -/
abbrev Half := BitVec 16

/-- A byte of an operation word or of a table image written as bytes (R62). -/
abbrev Byte := BitVec 8

/-- A timer configuration or a snapshot of one: 32 bits, opaque (R45). -/
abbrev TimerConfig := BitVec 32

end Sys2Proof
end

