-- ==== Sys2Proof/Config.lean ====
section
/-! DEFINITION. The configuration of a build of the block (00_scope.md R8): the descriptor record, the
parameters, and the two open values that no proof can see. -/

namespace Sys2Proof

/-- A timing (R15): the expected duration and the tolerance, both in ticks. -/
structure Timing where
  exp : Half
  tol : Half
  deriving DecidableEq, Repr, Inhabited

/-- A descriptor record with the fields of 10_state.md R22; `rsvd` is the reserved `h2[15:8]` of
30_encoding.md R95, kept so that the record and its 22 halfwords carry the same bits. -/
structure Desc where
  id : BitVec 8
  flags : BitVec 8
  addrBits : BitVec 8
  cmdBits : BitVec 8
  nSub : BitVec 8
  rsvd : BitVec 8
  hdrPulse : Timing
  hdrPause : Timing
  p1Pulse : Timing
  p1Pause : Timing
  p0Pulse : Timing
  p0Pause : Timing
  rptPulse : Timing
  rptPause : Timing
  gap : Half
  repWindow : Half
  txRate : Half
  deriving DecidableEq, Repr, Inhabited

/-- `CARRIER` (R8): whether the pin toggles every tick of a mark or follows the envelope. -/
inductive Carrier where
  | toggle
  | level
  deriving DecidableEq, Repr, Inhabited

/-- The parameters of R8 that are data. `NPROTO` is the number of records of `table`; `tcfg_of`, a
function, is `Config.tcfgOf`. -/
structure Config where
  table : List Desc
  fRxCode : Half
  activeIn : Bool
  activeOut : Bool
  carrier : Carrier
  tcfgReset : TimerConfig
  deriving DecidableEq, Repr, Inhabited

/-- `tcfg_of` (R8, R242): the platform's timer configuration for a rate code, uninterpreted
(DESIGN CHOICE, safe; notes/assumptions/4.md). -/
opaque Config.tcfgOf : BitVec 16 → TimerConfig

/-- The configuration this machine was built with: R8 leaves every field open, and `tcfgReset` is
any value (R333). Nothing can be proved of it (DESIGN CHOICE, safe; notes/assumptions/3.md). -/
opaque Config.build : Config

end Sys2Proof
end

