-- ==== Sys2Proof/Machine/Operands.lean ====
section
/-! DEFINITION. What the rules read from a configuration and from their operands: timing windows, the
fields of a descriptor record and of the table, the record's binary layout, bit reversal, and the
assembly and extraction of a frame's bits. -/

namespace Sys2Proof

/-! ## Timings and windows (R15, R346(b): in unbounded integers) -/

/-- `t.min` (R15). -/
def Timing.min (t : Timing) : Int := (t.exp.toNat : Int) - (t.tol.toNat : Int)

/-- `t.max` (R15). -/
def Timing.max (t : Timing) : Int := (t.exp.toNat : Int) + (t.tol.toNat : Int)

/-- `in(v, t)` (R15): the window is closed at both ends (90_conflicts.md C2). -/
def within (v : Half) (t : Timing) : Bool :=
  decide (t.min ≤ (v.toNat : Int)) && decide ((v.toNat : Int) ≤ t.max)

/-- `v ≤ b` for a counter and a bound of unbounded size (R346(b)). -/
def atMost (v : Half) (b : Int) : Bool := decide ((v.toNat : Int) ≤ b)

/-! ## The fields of a descriptor (R22 to R24) -/

/-- `IS_MANCHESTER` (R23 bit 0). -/
def Desc.isManchester (d : Desc) : Bool := d.flags.getLsbD 0
/-- `HAS_STOP` (R23 bit 1). -/
def Desc.hasStop (d : Desc) : Bool := d.flags.getLsbD 1
/-- `d.inv`, the flag `INVERTED` (R23 bit 2, R24). -/
def Desc.inv (d : Desc) : Bool := d.flags.getLsbD 2
/-- `PULSE_LENGTH` (R23 bit 3). -/
def Desc.pulseLength (d : Desc) : Bool := d.flags.getLsbD 3
/-- `LSB_FIRST` (R23 bit 4). -/
def Desc.lsbFirst (d : Desc) : Bool := d.flags.getLsbD 4
/-- `HAS_RPT` (R23 bit 5). -/
def Desc.hasRpt (d : Desc) : Bool := d.flags.getLsbD 5

/-- `d.nbits` (R24). -/
def Desc.nbits (d : Desc) : Nat := d.addrBits.toNat + d.cmdBits.toNat

/-- `inS(d, v)` (R24): one half bit. -/
def Desc.inS (d : Desc) (v : Half) : Bool :=
  decide (d.p1Pulse.min ≤ (v.toNat : Int)) && decide ((v.toNat : Int) ≤ d.p1Pulse.max)

/-- `inL(d, v)` (R24): two half bits. -/
def Desc.inL (d : Desc) (v : Half) : Bool :=
  decide (2 * d.p1Pulse.min ≤ (v.toNat : Int)) && decide ((v.toNat : Int) ≤ 2 * d.p1Pulse.max)

/-! ## The table (R8, R13, R60, R95) -/

/-- `NPROTO` (R8). -/
def Config.nproto (c : Config) : Nat := c.table.length

/-- `Desc(i)` (R13). An index outside the table has no defined behaviour (R63): a tick that would
read one faults first (`tickFault`), so the value given here for it is never used
(notes/assumptions/7.md). -/
def Config.desc (c : Config) (i : Nat) : Desc := (c.table[i]?).getD default

/-- The index of the record with the protocol id `p` (R200, R244); ids are distinct (R97). -/
def Config.findProto (c : Config) (p : BitVec 8) : Option Nat :=
  c.table.findIdx? (fun d => d.id == p)

/-- The 22 halfwords `h0` to `h21` of a record (R95). -/
def Desc.halfwords (d : Desc) : List Half :=
  [d.flags ++ d.id, d.cmdBits ++ d.addrBits, d.rsvd ++ d.nSub,
   d.hdrPulse.exp, d.hdrPulse.tol, d.hdrPause.exp, d.hdrPause.tol,
   d.p1Pulse.exp, d.p1Pulse.tol, d.p1Pause.exp, d.p1Pause.tol,
   d.p0Pulse.exp, d.p0Pulse.tol, d.p0Pause.exp, d.p0Pause.tol,
   d.rptPulse.exp, d.rptPulse.tol, d.rptPause.exp, d.rptPause.tol,
   d.gap, d.repWindow, d.txRate]

/-- The record that 22 halfwords hold (R95). -/
def Desc.ofHalfwords : List Half → Option Desc
  | [h0, h1, h2, h3, h4, h5, h6, h7, h8, h9, h10, h11, h12, h13, h14, h15, h16, h17, h18, h19,
     h20, h21] =>
    some { id := h0.extractLsb' 0 8, flags := h0.extractLsb' 8 8,
           addrBits := h1.extractLsb' 0 8, cmdBits := h1.extractLsb' 8 8,
           nSub := h2.extractLsb' 0 8, rsvd := h2.extractLsb' 8 8,
           hdrPulse := ⟨h3, h4⟩, hdrPause := ⟨h5, h6⟩, p1Pulse := ⟨h7, h8⟩, p1Pause := ⟨h9, h10⟩,
           p0Pulse := ⟨h11, h12⟩, p0Pause := ⟨h13, h14⟩, rptPulse := ⟨h15, h16⟩,
           rptPause := ⟨h17, h18⟩, gap := h19, repWindow := h20, txRate := h21 }
  | _ => none

/-- The halfwords of the table's address space (R60): record `i` at `22*i` to `22*i + 21`. -/
def Config.image (c : Config) : List Half := c.table.flatMap Desc.halfwords

/-- `MemRead(addr, 1)` (R13): a halfword of the table; nothing else is addressable (R61). -/
def Config.memRead (c : Config) (addr : Nat) : Option Half := c.image[addr]?

/-- The bytes of a halfword image, low byte first (R62). -/
def imageBytes (hs : List Half) : List Byte :=
  hs.flatMap fun h => [h.extractLsb' 0 8, h.extractLsb' 8 8]

/-! ## Bits of a frame (R11, R181, R204) -/

/-- `bitrev(v, n)` (R181; `rev` of R11): the low `n` bits of `v` in reverse order. -/
def bitrev (v : Nat) : Nat → Nat
  | 0 => 0
  | n + 1 => (v % 2) * 2 ^ n + bitrev (v / 2) n

/-- A field's bits in the order the descriptor sends them: reversed when `LSB_FIRST` (R181, R204). -/
def Desc.order (d : Desc) (v n : Nat) : Nat := if d.lsbFirst then bitrev v n else v

/-- `extract(d, data)` (R181): the address and the command of a received frame. -/
def Desc.extract (d : Desc) (data : BitVec 32) : BitVec 16 × BitVec 32 :=
  let raw := data.toNat % 2 ^ d.nbits
  let a := raw / 2 ^ d.cmdBits.toNat
  let c := raw % 2 ^ d.cmdBits.toNat
  (BitVec.ofNat 16 (d.order a d.addrBits.toNat), BitVec.ofNat 32 (d.order c d.cmdBits.toNat))

/-- `assemble(d, a, c)` (R204): the frame bits of a send, address field first. -/
def Desc.assemble (d : Desc) (a : BitVec 16) (c : BitVec 32) : BitVec 32 :=
  let a' := d.order (a.toNat % 2 ^ d.addrBits.toNat) d.addrBits.toNat
  let c' := d.order (c.toNat % 2 ^ d.cmdBits.toNat) d.cmdBits.toNat
  BitVec.ofNat 32 (a' * 2 ^ d.cmdBits.toNat + c')

/-- `wire(k)` (R205): the wire value of data bit `k` of a frame being sent. -/
def Desc.wire (d : Desc) (frame : BitVec 32) (k : Nat) : Bool :=
  frame.getLsbD (d.nbits - 1 - k) ^^ d.inv

/-! ## Counters (R11, R346) -/

/-- `sat_inc(c)` (R11, R346(a)). -/
def satInc (c : Half) : Half := if c = 0xFFFF#16 then c else c + 1#16

end Sys2Proof
end

