-- ==== Sys2Proof/Syntax.lean ====
section
/-! DEFINITION. The nine operations (00_scope.md R2, 30_encoding.md R81 to R89), one constructor per
row of spec/opcode_table.json, in the table's order. -/

namespace Sys2Proof

/-- An operation with its operands, each an unsigned field taken as it stands (R93). -/
inductive Instr where
  /-- `NOP` (R81). -/
  | nop
  /-- `TICK s` (R82): the sample bit read from the input pin. -/
  | tick (sample : Bool)
  /-- `SEND p, a, c, r` (R83). -/
  | send (proto : BitVec 8) (addr : BitVec 16) (cmd : BitVec 32) (reps : BitVec 4)
  /-- `GET_RESULT` (R84). -/
  | getResult
  /-- `RD_STATUS` (R85). -/
  | rdStatus
  /-- `SET_CB e` (R86). -/
  | setCb (en : Bool)
  /-- `CFG_RX` (R87). -/
  | cfgRx
  /-- `CFG_TX p` (R88). -/
  | cfgTx (proto : BitVec 8)
  /-- `RESTORE v` (R89). -/
  | restore (snapshot : BitVec 32)
  deriving DecidableEq, Repr

end Sys2Proof
end

