-- ==== Sys2Proof/WellFormed.lean ====
section
/-! DEFINITION. When an operation, a descriptor record and a configuration are well-formed
(30_encoding.md R96, R97; 00_scope.md R8, R10). -/

namespace Sys2Proof

/-- A well-formed operation. Every operand is a field of exactly its width (R93), which the types of
`Instr` already say, and R90 puts no condition on an operand's value: every term is well-formed. -/
abbrev Instr.WF (_ : Instr) : Prop := True

/-- `in(v, t)` of R15 as a proposition. -/
abbrev Timing.Has (t : Timing) (v : Half) : Prop :=
  t.min ≤ (v.toNat : Int) ∧ (v.toNat : Int) ≤ t.max

/-- Two windows are disjoint (R97): the `max` of one is less than the `min` of the other. -/
abbrev Timing.Disjoint (t u : Timing) : Prop := t.max < u.min ∨ u.max < t.min

/-- The condition of W5 on one timing. -/
abbrev Timing.InRange (t : Timing) : Prop := 1 ≤ t.min ∧ t.max ≤ 0xFFFE

/-- W1 of R97. -/
abbrev Desc.W1 (d : Desc) : Prop := 1 ≤ d.id.toNat ∧ d.id.toNat ≤ 255
/-- W2 of R97, that is R96: the reserved parts are 0. -/
abbrev Desc.W2 (d : Desc) : Prop :=
  d.flags.getLsbD 6 = false ∧ d.flags.getLsbD 7 = false ∧ d.rsvd = 0#8
/-- W3 of R97. -/
abbrev Desc.W3 (d : Desc) : Prop :=
  d.addrBits.toNat ≤ 16 ∧ d.cmdBits.toNat ≤ 32 ∧ 1 ≤ d.nbits ∧ d.nbits ≤ 32
/-- W4 of R97. -/
abbrev Desc.W4 (d : Desc) : Prop := 1 ≤ d.nSub.toNat ∧ d.nSub.toNat ≤ 255
/-- W5 of R97: every timing that is used is in range. -/
abbrev Desc.W5 (d : Desc) : Prop :=
  d.hdrPulse.InRange ∧ d.hdrPause.InRange ∧ d.p1Pulse.InRange ∧ d.p1Pause.InRange ∧
  d.p0Pulse.InRange ∧ d.p0Pause.InRange ∧
  (d.hasRpt = true → d.rptPulse.InRange ∧ d.rptPause.InRange)
/-- W6 of R97: a repeat code needs a stop bit and a header of its own. -/
abbrev Desc.W6 (d : Desc) : Prop :=
  d.hasRpt = true → d.isManchester = false ∧ d.hasStop = true ∧
    (d.rptPulse.Disjoint d.hdrPulse ∨ d.rptPause.Disjoint d.hdrPause)
/-- W7 of R97: the conditions on a Manchester record. -/
abbrev Desc.W7 (d : Desc) : Prop :=
  d.isManchester = true → d.hasStop = false ∧ d.pulseLength = false ∧
    d.p1Pause = d.p1Pulse ∧ d.p0Pulse = d.p1Pulse ∧ d.p0Pause = d.p1Pulse ∧
    d.p1Pulse.max < 2 * d.p1Pulse.min ∧
    d.hdrPause.max < d.hdrPause.min + d.p1Pulse.min ∧
    2 * d.p1Pulse.max + 1 ≤ (d.gap.toNat : Int)
/-- W8 of R97: the conditions on a pulse-length record. -/
abbrev Desc.W8 (d : Desc) : Prop :=
  d.isManchester = false → d.pulseLength = true → d.p1Pause = d.p0Pause ∧
    d.p1Pulse.Disjoint d.p0Pulse ∧ (d.hasStop = false → d.p1Pause.max + 1 ≤ (d.gap.toNat : Int))
/-- W9 of R97: the conditions on a pulse-distance record. -/
abbrev Desc.W9 (d : Desc) : Prop :=
  d.isManchester = false → d.pulseLength = false → d.p1Pulse = d.p0Pulse ∧
    d.p1Pause.Disjoint d.p0Pause ∧ d.hasStop = true
/-- W10 of R97. -/
abbrev Desc.W10 (d : Desc) : Prop := 1 ≤ d.gap.toNat ∧ d.repWindow.toNat ≤ 0xFFFE

/-- The check of a record (R97): W1 to W10. -/
def Desc.wf (d : Desc) : Bool :=
  decide d.W1 && decide d.W2 && decide d.W3 && decide d.W4 && decide d.W5 && decide d.W6 &&
  decide d.W7 && decide d.W8 && decide d.W9 && decide d.W10

/-- A record is well-formed (R97) when W1 to W10 hold. -/
abbrev Desc.WF (d : Desc) : Prop := d.wf = true

/-- `1 ≤ NPROTO ≤ 255` (R8). -/
abbrev Config.CountWF (c : Config) : Prop := 1 ≤ c.nproto ∧ c.nproto ≤ 255
/-- Every record is well-formed and the ids are pairwise distinct (R8, R97). -/
abbrev Config.TableWF (c : Config) : Prop :=
  (∀ d ∈ c.table, d.WF) ∧ (c.table.map Desc.id).Nodup
/-- `1000 ≤ F_RX_CODE ≤ 2000` (R8). -/
abbrev Config.RateWF (c : Config) : Prop := 1000 ≤ c.fRxCode.toNat ∧ c.fRxCode.toNat ≤ 2000

/-- A configuration that a build accepts (R8, R10). -/
abbrev Config.WF (c : Config) : Prop := c.CountWF ∧ c.TableWF ∧ c.RateWF

end Sys2Proof
end

