-- ==== Sys2Proof/Decode.lean ====
section
/-! DEFINITION. The decoder of operation words (30_encoding.md R80 to R90), the opcode table's match
and mask rows (R99), the encoder, and the textual and pseudo forms of R98. -/

namespace Sys2Proof

/-- Why a word or a byte sequence is no operation (R90). -/
inductive DecodeError where
  /-- The opcode is `0x9` to `0xF`. -/
  | illegalOpcode (op : BitVec 4)
  /-- A bit that the operation's encoding reserves is 1. -/
  | reservedBit (mnemonic : String)
  /-- Fewer than the eight bytes of an operation word (R80, R62). -/
  | tooShort (length : Nat)
  deriving DecidableEq, Repr

/-- What a decoding gives. -/
inductive Decoded (α : Type) where
  | ok (a : α)
  | illegal (e : DecodeError)
  deriving DecidableEq, Repr

/-! ## Operation words (R80 to R89) -/

/-- `i` where the reserved bits are all 0, else the rejection that names the operation. -/
def whenZero (reserved : Bool) (mnemonic : String) (i : Instr) : Decoded Instr :=
  if reserved then .ok i else .illegal (.reservedBit mnemonic)

/-- The operation of a 64-bit word: `op = w[63:60]` (R80) selects the row, the operands are fields
(R81 to R89), a reserved bit must be 0 (R90). Total: every word is an operation or illegal. -/
def decode (w : Word) : Decoded Instr :=
  match (w.extractLsb' 60 4).toNat with
  | 0 => whenZero (w.extractLsb' 0 60 == 0#60) "NOP" .nop
  | 1 => whenZero (w.extractLsb' 1 59 == 0#59) "TICK" (.tick (w.getLsbD 0))
  | 2 => .ok (.send (w.extractLsb' 52 8) (w.extractLsb' 36 16) (w.extractLsb' 4 32)
      (w.extractLsb' 0 4))
  | 3 => whenZero (w.extractLsb' 0 60 == 0#60) "GET_RESULT" .getResult
  | 4 => whenZero (w.extractLsb' 0 60 == 0#60) "RD_STATUS" .rdStatus
  | 5 => whenZero (w.extractLsb' 1 59 == 0#59) "SET_CB" (.setCb (w.getLsbD 0))
  | 6 => whenZero (w.extractLsb' 0 60 == 0#60) "CFG_RX" .cfgRx
  | 7 => whenZero (w.extractLsb' 0 52 == 0#52) "CFG_TX" (.cfgTx (w.extractLsb' 52 8))
  | 8 => whenZero (w.extractLsb' 32 28 == 0#28) "RESTORE" (.restore (w.extractLsb' 0 32))
  | _ => .illegal (.illegalOpcode (w.extractLsb' 60 4))

/-- The operation word of an operation (R81 to R89). -/
def encode : Instr → Word
  | .nop => 0x0#4 ++ 0#60
  | .tick s => 0x1#4 ++ 0#59 ++ BitVec.ofBool s
  | .send p a c r => 0x2#4 ++ p ++ a ++ c ++ r
  | .getResult => 0x3#4 ++ 0#60
  | .rdStatus => 0x4#4 ++ 0#60
  | .setCb e => 0x5#4 ++ 0#59 ++ BitVec.ofBool e
  | .cfgRx => 0x6#4 ++ 0#60
  | .cfgTx p => 0x7#4 ++ p ++ 0#52
  | .restore v => 0x8#4 ++ 0#28 ++ v

/-! ## Words as bytes (R62) -/

/-- The word whose bytes these are, first byte least significant (R62). -/
def wordOfBytes (b0 b1 b2 b3 b4 b5 b6 b7 : Byte) : Word :=
  b7 ++ b6 ++ b5 ++ b4 ++ b3 ++ b2 ++ b1 ++ b0

/-- A word as bytes, `w[7:0]` first (R62). -/
def bytesOfWord (w : Word) : List Byte :=
  [w.extractLsb' 0 8, w.extractLsb' 8 8, w.extractLsb' 16 8, w.extractLsb' 24 8,
   w.extractLsb' 32 8, w.extractLsb' 40 8, w.extractLsb' 48 8, w.extractLsb' 56 8]

/-- The operation at the front of a byte sequence, and the bytes after it. -/
def decodeBytes : List Byte → Decoded (Instr × List Byte)
  | b0 :: b1 :: b2 :: b3 :: b4 :: b5 :: b6 :: b7 :: rest =>
    match decode (wordOfBytes b0 b1 b2 b3 b4 b5 b6 b7) with
    | .ok i => .ok (i, rest)
    | .illegal e => .illegal e
  | short => .illegal (.tooShort short.length)

/-- The word whose low `nbits` bits are those of `w` and whose other bits are 0. -/
def tableWord (nbits w : Nat) : Word := BitVec.ofNat 64 (w % 2 ^ nbits)

/-- The operation the decoder reads from the bits `w` of a row of the opcode table, laid out as
bytes in the order of R62. -/
def decodeTableWord (nbits w : Nat) : Option Instr :=
  match decodeBytes (bytesOfWord (tableWord nbits w)) with
  | .ok (i, _) => some i
  | .illegal _ => none

/-! ## The opcode table (R99) -/

/-- The mnemonic of an operation, as R99 and the opcode table spell it. -/
def Instr.mnemonic : Instr → String
  | .nop => "NOP"
  | .tick _ => "TICK"
  | .send _ _ _ _ => "SEND"
  | .getResult => "GET_RESULT"
  | .rdStatus => "RD_STATUS"
  | .setCb _ => "SET_CB"
  | .cfgRx => "CFG_RX"
  | .cfgTx _ => "CFG_TX"
  | .restore _ => "RESTORE"

/-- A row of the opcode table: the mask covers the opcode and every reserved bit (R99). -/
structure OpRow where
  mnemonic : String
  pattern : Word
  mask : Word
  deriving DecidableEq, Repr

/-- The nine rows, with the `match` and `mask` of spec/opcode_table.json. -/
def opcodeTable : List OpRow :=
  [⟨"NOP", 0x0000000000000000#64, 0xFFFFFFFFFFFFFFFF#64⟩,
   ⟨"TICK", 0x1000000000000000#64, 0xFFFFFFFFFFFFFFFE#64⟩,
   ⟨"SEND", 0x2000000000000000#64, 0xF000000000000000#64⟩,
   ⟨"GET_RESULT", 0x3000000000000000#64, 0xFFFFFFFFFFFFFFFF#64⟩,
   ⟨"RD_STATUS", 0x4000000000000000#64, 0xFFFFFFFFFFFFFFFF#64⟩,
   ⟨"SET_CB", 0x5000000000000000#64, 0xFFFFFFFFFFFFFFFE#64⟩,
   ⟨"CFG_RX", 0x6000000000000000#64, 0xFFFFFFFFFFFFFFFF#64⟩,
   ⟨"CFG_TX", 0x7000000000000000#64, 0xF00FFFFFFFFFFFFF#64⟩,
   ⟨"RESTORE", 0x8000000000000000#64, 0xFFFFFFFF00000000#64⟩]

/-- A word is a row's operation exactly when `w AND mask = match` (R99). -/
def OpRow.covers (r : OpRow) (w : Word) : Bool := (w &&& r.mask) == r.pattern

/-! ## Textual syntax and pseudo-operations (R98) -/

/-- A one-bit operand as text. -/
def bitText (b : Bool) : String := if b then "1" else "0"

/-- An operation in the textual form of R98, numbers in decimal. -/
def Instr.text : Instr → String
  | .nop => "NOP"
  | .tick s => "TICK " ++ bitText s
  | .send p a c r => "SEND " ++ toString p.toNat ++ ", " ++ toString a.toNat ++ ", " ++
      toString c.toNat ++ ", " ++ toString r.toNat
  | .getResult => "GET_RESULT"
  | .rdStatus => "RD_STATUS"
  | .setCb e => "SET_CB " ++ bitText e
  | .cfgRx => "CFG_RX"
  | .cfgTx p => "CFG_TX " ++ toString p.toNat
  | .restore v => "RESTORE " ++ toString v.toNat

/-- `TICKS s, n` (R98): `n` copies of `TICK s`. -/
def ticks (s : Bool) (n : Nat) : List Instr := List.replicate n (.tick s)

/-- `SEGS` (R98): for each pair in order, `n` samples of the level, a mark (`true`) being
`ACTIVE_IN`. -/
def segs (activeIn : Bool) (l : List (Bool × Nat)) : List Instr :=
  l.flatMap fun p => ticks (if p.1 then activeIn else !activeIn) p.2

end Sys2Proof
end

