-- ==== Sys2Proof/Machine/State.lean ====
section
/-! DEFINITION. The state of the block (10_state.md R20 to R45), its reset values (R52), and the
reasons a step can stop. -/

namespace Sys2Proof.Machine

/-- A `DecodedCommand` (R25): flag bit 0 is `REP`, bit 1 `ERR`, bits 3:2 are 0. -/
structure DecodedCommand where
  proto : BitVec 8
  addr : BitVec 16
  cmd : BitVec 32
  flags : BitVec 4
  deriving DecidableEq, Repr

/-- The decoder's frame registers (R26 to R34), the ones `dec_clear` clears (R49). -/
structure DecRegs where
  /-- `bitpos`, two's complement; −1 is idle (R26). -/
  bitpos : BitVec 7
  /-- `pulse_time` (R27). -/
  pulseTime : Half
  /-- `pause_time` (R28). -/
  pauseTime : Half
  /-- `start_bit_detected` (R29). -/
  startBitDetected : Bool
  /-- `wait_space` (R30). -/
  waitSpace : Bool
  /-- `cand_valid`; `false` is `SCAN_ALL` (R31). -/
  candValid : Bool
  /-- `cand_idx` (R31). -/
  candIdx : BitVec 8
  /-- `rpt` (R32). -/
  rpt : Bool
  /-- `man_mid` (R33). -/
  manMid : Bool
  /-- `data` (R34). -/
  data : BitVec 32
  deriving DecidableEq, Repr

/-- The repeat-detection registers (R35). -/
structure RepRegs where
  /-- `rep_timer`. -/
  timer : Half
  lastValid : Bool
  lastProto : BitVec 8
  lastAddr : BitVec 16
  lastCmd : BitVec 32
  deriving DecidableEq, Repr

/-- `enc_phase` (R41): `START = 0` to `GAP = 6`; 7 is never held, so no value stands for it
(93_implementation_defined.md U10). -/
inductive Phase where
  | start
  | hdrMark
  | hdrSpace
  | bitA
  | bitB
  | stopMark
  | gap
  deriving DecidableEq, Repr

/-- The encoder registers (R38 to R43). -/
structure EncRegs where
  /-- `enc_active`, the busy flag (R38). -/
  active : Bool
  /-- `enc_desc` (R39). -/
  desc : BitVec 8
  /-- `enc_frame` (R39). -/
  frame : BitVec 32
  /-- `enc_rep_left` (R40). -/
  repLeft : BitVec 4
  /-- `enc_rptframe` (R40). -/
  rptFrame : Bool
  /-- `enc_phase` (R41). -/
  phase : Phase
  /-- `enc_bitidx` (R41). -/
  bitIdx : BitVec 5
  /-- `enc_dur` (R42). -/
  dur : Half
  /-- `enc_sub` (R42). -/
  sub : BitVec 8
  /-- `enc_level`, the envelope: `true` is mark (R43). -/
  level : Bool
  /-- `pin_on` (R43). -/
  pinOn : Bool
  deriving DecidableEq, Repr

/-- `mode` (R44): which state machine a tick goes to. -/
inductive Mode where
  | rx
  | tx
  deriving DecidableEq, Repr

/-- The arbiter registers (R44, R45). -/
structure ArbRegs where
  mode : Mode
  timerCfg : TimerConfig
  snap : TimerConfig
  deriving DecidableEq, Repr

/-- What the outside world presents to the block: an operation word (R80), or the reset input (R330).
The model's own form of the input (notes/assumptions/1.md). -/
inductive Input where
  | op (w : Word)
  | reset
  deriving DecidableEq, Repr

/-- The whole state. `cfg` is the read-only configuration of the build (notes/assumptions/3.md);
`input` and `resp` are the model's own (notes/assumptions/1.md and 2.md). -/
structure State where
  /-- The configuration: the descriptor table and the parameters of R8. Nothing writes it. -/
  cfg : Config
  dec : DecRegs
  rep : RepRegs
  /-- The result register `res_proto`, `res_addr`, `res_cmd`, `res_flags` (R36). -/
  res : DecodedCommand
  /-- `ready` (R36). -/
  ready : Bool
  /-- `cb_en` (R37). -/
  cbEn : Bool
  enc : EncRegs
  arb : ArbRegs
  /-- The pending tick with its sample, at most one (R66, R303; notes/assumptions/5.md). -/
  tickPending : Option Bool
  /-- The inputs presented and not yet taken, oldest first (R65, R67). -/
  input : List Input
  /-- The response to the last operation taken (R91), `none` when none has been since reset. -/
  resp : Option Word
  deriving DecidableEq, Repr

/-- The faults: states in which the rules have no meaning, and which 10_state.md R51 makes
unreachable (93_implementation_defined.md U7, U10: stuck). Each is raised by `TICK` alone and is safe:
the model stops where the spec gives no effect. -/
inductive Fault where
  /-- A tick that would read a record outside the table (R63). Safe. -/
  | tableIndex
  /-- An encoder tick that would decrement a counter that is 0 (R346(e)). Safe. -/
  | counterUnderflow
  /-- An encoder tick that would send a data bit the frame does not have (R205). Safe. -/
  | bitIndex
  /-- A decoder tick in none of the named states of R21: `bitpos` below −1. Safe. -/
  | noDecState
  deriving DecidableEq, Repr

/-- Refusals by the model. The block's own refusals (R91) are responses, not these. -/
inductive Refusal where
  /-- `exec`'s answer for an instruction without a meaning; no instruction is left without one. Safe. -/
  | notModelled (mnemonic : String)
  deriving DecidableEq, Repr

/-- The value `−1` of `bitpos` in its 7 bits (R26, R52: 0x7F). -/
abbrev bitposIdle : BitVec 7 := 0x7F#7

/-- The cleared frame registers (R49); also their reset values (R52). -/
def DecRegs.cleared : DecRegs :=
  { bitpos := bitposIdle, pulseTime := 0, pauseTime := 0, startBitDetected := false,
    waitSpace := false, candValid := false, candIdx := 0, rpt := false, manMid := false, data := 0 }

/-- The repeat-detection registers after reset (R52): expired, nothing decoded. -/
def RepRegs.atReset : RepRegs :=
  { timer := 0xFFFF#16, lastValid := false, lastProto := 0, lastAddr := 0, lastCmd := 0 }

/-- The encoder registers after reset (R52). -/
def EncRegs.atReset : EncRegs :=
  { active := false, desc := 0, frame := 0, repLeft := 0, rptFrame := false, phase := .start,
    bitIdx := 0, dur := 0, sub := 0, level := false, pinOn := false }

/-- The state right after reset of a block built with the configuration `c` (R52, R330). -/
def State.resetWith (c : Config) : State :=
  { cfg := c, dec := .cleared, rep := .atReset, res := ⟨0, 0, 0, 0⟩, ready := false, cbEn := false,
    enc := .atReset, arb := { mode := .rx, timerCfg := c.tcfgReset, snap := c.tcfgReset },
    tickPending := none, input := [], resp := none }

/-- The machine right after reset, with the configuration it was built with. -/
def State.reset : State := State.resetWith Config.build

end Sys2Proof.Machine
end

