-- ==== Sys2Proof/Machine/Flags.lean ====
section
/-! DEFINITION. The status values, the response words, the status bits and the named decoder state:
everything the block computes from its one-bit registers (30_encoding.md R91, R92; 46_host_ops.md R262;
10_state.md R21, R46, R47). -/

namespace Sys2Proof.Machine

/-- The statuses of R91. -/
inductive Status where
  | ok
  | none
  | refusedBusy
  | refusedMode
  | refusedProto
  | illegal
  deriving DecidableEq, Repr

/-- The value of a status (R91). -/
def Status.code : Status → BitVec 4
  | .ok => 0x0#4
  | .none => 0x1#4
  | .refusedBusy => 0x2#4
  | .refusedMode => 0x3#4
  | .refusedProto => 0x4#4
  | .illegal => 0xF#4

/-- A response word: the status in `r[63:60]`, the payload below (R91). -/
def response (st : Status) (payload : BitVec 60) : Word := st.code ++ payload

/-- The payload of a record: `r[59:52] = proto` to `r[3:0] = flags` (R91). -/
def recordPayload (r : DecodedCommand) : BitVec 60 := r.proto ++ r.addr ++ r.cmd ++ r.flags

/-- The response to a `TICK` (R92): the record or none, with the strobes in bits 3 and 2. -/
def tickResponse (record : Option DecodedCommand) (dataComplete sendDone : Bool) : Word :=
  match record with
  | some r =>
    response .ok (r.proto ++ r.addr ++ r.cmd ++
      (BitVec.ofBool sendDone ++ BitVec.ofBool dataComplete ++ r.flags.extractLsb' 0 2))
  | none =>
    response .none (0#56 ++ (BitVec.ofBool sendDone ++ BitVec.ofBool dataComplete ++ 0#2))

/-- `mode` as a status bit: 1 is TX (R262). -/
def Mode.bit : Mode → Bool
  | .rx => false
  | .tx => true

/-- The payload of `RD_STATUS` (R262): `r[0] = ready`, `r[1] = enc_active`, `r[2] = mode`,
`r[3] = cb_en`. -/
def statusPayload (s : State) : BitVec 60 :=
  0#56 ++ (BitVec.ofBool s.cbEn ++ BitVec.ofBool s.arb.mode.bit ++ BitVec.ofBool s.enc.active ++
    BitVec.ofBool s.ready)

/-- The value of `enc_phase` in its three bits (R41). -/
def Phase.code : Phase → BitVec 3
  | .start => 0
  | .hdrMark => 1
  | .hdrSpace => 2
  | .bitA => 3
  | .bitB => 4
  | .stopMark => 5
  | .gap => 6

/-- The output `pin` (R46). -/
def State.pin (s : State) : Bool := if s.enc.pinOn then s.cfg.activeOut else !s.cfg.activeOut

/-- The direction of the output pin (R47). -/
inductive Dir where
  | in_
  | out
  deriving DecidableEq, Repr

/-- The output `out_dir` (R47, R251). -/
def State.outDir (s : State) : Dir :=
  match s.arb.mode with
  | .rx => .in_
  | .tx => .out

/-- The candidate descriptor `Desc(cand_idx)` (R31). -/
def State.cand (s : State) : Desc := s.cfg.desc s.dec.candIdx.toNat

/-- `nbits_eff` of R21: 0 for a repeat code. -/
def State.nbitsEff (s : State) : Nat := if s.dec.rpt then 0 else s.cand.nbits

/-- The named decoder states that last between operations (R21). -/
inductive DecState where
  | idle
  | startBitSeen
  | receivingBits
  | stopBitExpected
  deriving DecidableEq, Repr

/-- `dec_state` (R21). A `bitpos` below −1 with a start bit is in none of the named states; a decoder
tick then faults before it asks. -/
def State.decState (s : State) : DecState :=
  if !s.dec.startBitDetected then .idle
  else if s.dec.bitpos = bitposIdle then .startBitSeen
  else if decide (s.dec.bitpos.toInt = (s.nbitsEff : Int)) && s.cand.hasStop then .stopBitExpected
  else .receivingBits

/-- The `REP` flag of a full frame (R185), from the repeat-detection registers. -/
def repeatFlag (d : Desc) (r : RepRegs) (a : BitVec 16) (c : BitVec 32) : Bool :=
  !d.hasRpt && r.lastValid && r.lastProto == d.id && r.lastAddr == a && r.lastCmd == c &&
    decide (r.timer.toNat ≤ d.repWindow.toNat)

/-- Whether a repeat code of `d` has something to repeat (R186). -/
def repeatCodeFits (d : Desc) (r : RepRegs) : Bool :=
  r.lastValid && r.lastProto == d.id && decide (r.timer.toNat ≤ d.repWindow.toNat)

end Sys2Proof.Machine
end

