-- ==== Sys2Proof/Machine/Ops.lean ====
section
/-! DEFINITION. The named operations over the registers that the meanings share: answering and refusing,
`dec_clear` and the two forms of abandon, storing a bit, emitting a result and COMPLETE, the two
switches of the arbiter. The block takes no exception and returns from none (60_exceptions.md R300, R306,
R307); abandon, refusal and hold stand in that place. -/

namespace Sys2Proof.Machine

/-! ## Answering an operation (R91) -/

/-- The operation ends with the response word `r`. -/
def respond (r : Word) (s : State) : State := { s with resp := some r }

/-- `respond OK` with no payload. -/
def respondOk (s : State) : State := respond (response .ok 0#60) s

/-- `refuse <Reason>` (R14, R91): the status, payload 0, no other change. -/
def refuse (st : Status) (s : State) : State := respond (response st 0#60) s

/-- What a refused operation of the arbiter answers in mode TX (R201, R244, R302). -/
def txRefusal (s : State) : Status := if s.enc.active then .refusedBusy else .refusedMode

/-! ## What a tick gives -/

/-- The outcome of one tick: the new state, the source's `Option<DecodedCommand>`, the strobes (R48). -/
structure TickOut where
  state : State
  record : Option DecodedCommand
  dataComplete : Bool
  sendDone : Bool
  deriving DecidableEq, Repr

/-- `return NONE`. -/
def quiet (s : State) : TickOut := ⟨s, none, false, false⟩

/-- The tick's response over the state it left (R240, R92). -/
def TickOut.finish (o : TickOut) : State :=
  respond (tickResponse o.record o.dataComplete o.sendDone) o.state

/-! ## Clearing and abandoning (R49, R114) -/

/-- `dec_clear` (R49). -/
def decClear (s : State) : State := { s with dec := .cleared }

/-- `abandon` (R114). -/
def abandon (s : State) : TickOut := quiet (decClear s)

/-- `abandon_restart` (R114): the tick's mark sample is the first of a possible new leading mark. -/
def abandonRestart (s : State) : TickOut :=
  quiet { s with dec := { DecRegs.cleared with pulseTime := 1#16 } }

/-! ## Storing a bit (R123) -/

/-- `store_bit(d, w)` (R123): the new frame registers and `true` for `ok`, or unchanged and `false` for
`overflow`. -/
def storeBit (d : Desc) (w : Bool) (r : DecRegs) : DecRegs × Bool :=
  if (if r.rpt then (0 : Int) else (d.nbits : Int)) ≤ r.bitpos.toInt then (r, false)
  else
    ({ r with data := (r.data <<< 1) ||| (BitVec.ofBool (w ^^ d.inv)).zeroExtend 32,
              bitpos := r.bitpos + 1#7 }, true)

/-! ## COMPLETE (R180 to R187) -/

/-- `emit(p, a, c, f)` (R182): the result register whole, `ready`, the repeat timer. -/
def emit (r : DecodedCommand) (s : State) : State :=
  { s with res := r, ready := true, rep := { s.rep with timer := 0#16 } }

/-- The last full frame decoded becomes `r` (R180). -/
def setLast (r : DecodedCommand) (s : State) : State :=
  { s with rep := { s.rep with lastValid := true, lastProto := r.proto, lastAddr := r.addr,
                               lastCmd := r.cmd } }

/-- The record a full frame gives (R180, R181, R184, R185). -/
def fullRecord (d : Desc) (s : State) : DecodedCommand :=
  let p := d.extract s.dec.data
  ⟨d.id, p.1, p.2, if repeatFlag d s.rep p.1 p.2 then 1#4 else 0#4⟩

/-- The record a repeat code gives (R186). -/
def repeatRecord (s : State) : DecodedCommand :=
  ⟨s.rep.lastProto, s.rep.lastAddr, s.rep.lastCmd, 1#4⟩

/-- `COMPLETE()` (R180). -/
def complete (s : State) : TickOut :=
  let d := s.cand
  if s.dec.rpt then
    if repeatCodeFits d s.rep then
      ⟨decClear (emit (repeatRecord s) s), some (repeatRecord s), s.cbEn, false⟩
    else quiet (decClear s)
  else
    ⟨decClear (setLast (fullRecord d s) (emit (fullRecord d s) s)), some (fullRecord d s), s.cbEn,
      false⟩

/-! ## The arbiter's switches (R245, R247) -/

/-- `switch_to_tx(i)` (R245). -/
def switchToTx (i : Nat) (s : State) : State :=
  decClear { s with arb := { mode := .tx, timerCfg := Config.tcfgOf (s.cfg.desc i).txRate,
                             snap := s.arb.timerCfg } }

/-- `switch_to_rx(v)` (R247). -/
def switchToRx (v : TimerConfig) (s : State) : State :=
  { s with arb := { s.arb with timerCfg := v, mode := .rx } }

end Sys2Proof.Machine
end

