-- ==== Sys2Proof/Machine/Decoder.lean ====
section
/-! DEFINITION. The decoder tick: what a `TICK` does in mode RX (40_decoder_common.md,
41_decoder_bits.md, 42_decoder_manchester.md, 43_decoder_complete.md). -/

namespace Sys2Proof.Machine

/-! ## IDLE (R115 to R117) -/

/-- `hdr_pulse_any(P)` (R117). -/
def hdrPulseAny (c : Config) (p : Half) : Bool :=
  c.table.any fun d => within p d.hdrPulse || (d.hasRpt && within p d.rptPulse)

/-- IDLE, mark sample (R115). -/
def idleMark (s : State) : TickOut :=
  quiet { s with dec := { s.dec with pulseTime := satInc s.dec.pulseTime } }

/-- IDLE, space sample (R116). -/
def idleSpace (s : State) : TickOut :=
  if s.dec.pulseTime = 0#16 then quiet s
  else if hdrPulseAny s.cfg s.dec.pulseTime then
    quiet { s with dec := { s.dec with startBitDetected := true, waitSpace := true,
                                       pauseTime := 1#16 } }
  else abandon s

/-! ## START_BIT_SEEN (R118 to R122) -/

/-- `hdr_viable(P, S)` (R119). -/
def hdrViable (c : Config) (p q : Half) : Bool :=
  c.table.any fun d =>
    (within p d.hdrPulse &&
      atMost q (d.hdrPause.max + (if d.isManchester then d.p1Pulse.max else 0))) ||
    (d.hasRpt && within p d.rptPulse && atMost q d.rptPause.max)

/-- START_BIT_SEEN, space sample (R118). -/
def hdrSpaceTick (s : State) : TickOut :=
  let q := satInc s.dec.pauseTime
  if hdrViable s.cfg s.dec.pulseTime q then
    quiet { s with dec := { s.dec with pauseTime := q } }
  else abandon s

/-- The kinds of header match (R121). -/
inductive HdrKind where
  | normal
  | shifted
  | rpt
  deriving DecidableEq, Repr

/-- How one record matches the header (R121): the normal header is tried before the repeat header. -/
def hdrKind (d : Desc) (p q : Half) : Option HdrKind :=
  if within p d.hdrPulse && within q d.hdrPause then some .normal
  else if within p d.hdrPulse && d.isManchester &&
      decide (d.hdrPause.min + d.p1Pulse.min ≤ (q.toNat : Int)) &&
      decide ((q.toNat : Int) ≤ d.hdrPause.max + d.p1Pulse.max) then some .shifted
  else if d.hasRpt && within p d.rptPulse && within q d.rptPause then some .rpt
  else none

/-- The scan of `hdr_match` from index `i` on (R121, R122): the first record that matches. -/
def hdrScan (p q : Half) : List Desc → Nat → Option (Nat × HdrKind)
  | [], _ => none
  | d :: ds, i =>
    match hdrKind d p q with
    | some k => some (i, k)
    | none => hdrScan p q ds (i + 1)

/-- `hdr_match(P, S)` (R121). -/
def hdrMatch (c : Config) (p q : Half) : Option (Nat × HdrKind) := hdrScan p q c.table 0

/-- The frame registers after a header match of record `i` (R120). -/
def hdrEnter (i : Nat) (k : HdrKind) (r : DecRegs) : DecRegs :=
  { r with candValid := true, candIdx := BitVec.ofNat 8 i, rpt := decide (k = .rpt),
           bitpos := 0#7, data := 0#32, pulseTime := 1#16, pauseTime := 0#16, waitSpace := false,
           manMid := false }

/-- START_BIT_SEEN, mark sample (R120). -/
def hdrMarkTick (s : State) : TickOut :=
  match hdrMatch s.cfg s.dec.pulseTime s.dec.pauseTime with
  | none => abandonRestart s
  | some (i, k) =>
    let r := hdrEnter i k s.dec
    if k = .shifted then
      quiet { s with dec := { (storeBit (s.cfg.desc i) false r).1 with manMid := true } }
    else quiet { s with dec := r }

/-! ## RECEIVING_BITS, pulse distance and pulse length (R140 to R144) -/

/-- The mark of a bit goes on (R141). -/
def bitMarkOn (d : Desc) (s : State) : TickOut :=
  let p := satInc s.dec.pulseTime
  if atMost p (max d.p1Pulse.max d.p0Pulse.max) then
    quiet { s with dec := { s.dec with pulseTime := p } }
  else abandon s

/-- The mark of a bit has ended (R142). -/
def bitMarkEnd (d : Desc) (s : State) : TickOut :=
  if within s.dec.pulseTime d.p1Pulse || within s.dec.pulseTime d.p0Pulse then
    quiet { s with dec := { s.dec with waitSpace := true, pauseTime := 1#16 } }
  else abandon s

/-- The space of a bit goes on (R143). -/
def bitSpaceOn (d : Desc) (s : State) : TickOut :=
  let q := satInc s.dec.pauseTime
  let v1 := within s.dec.pulseTime d.p1Pulse && atMost q d.p1Pause.max
  let v0 := within s.dec.pulseTime d.p0Pulse && atMost q d.p0Pause.max
  if v1 || v0 then quiet { s with dec := { s.dec with pauseTime := q } }
  else if decide (s.dec.bitpos.toInt = (d.nbits : Int) - 1) && !d.hasStop then
    complete { s with dec :=
      (storeBit d (within s.dec.pulseTime d.p1Pulse) { s.dec with pauseTime := q }).1 }
  else abandon s

/-- The wire value of a complete bit, mark and space (R144); the pair for 1 is tried first. -/
def bitValue (d : Desc) (p q : Half) : Option Bool :=
  if within p d.p1Pulse && within q d.p1Pause then some true
  else if within p d.p0Pulse && within q d.p0Pause then some false
  else none

/-- The space of a bit has ended (R144). -/
def bitSpaceEnd (d : Desc) (s : State) : TickOut :=
  match bitValue d s.dec.pulseTime s.dec.pauseTime with
  | none => abandonRestart s
  | some w =>
    let r := { (storeBit d w s.dec).1 with pulseTime := 1#16, pauseTime := 0#16, waitSpace := false }
    if decide (r.bitpos.toInt = (d.nbits : Int)) && !d.hasStop then abandonRestart s
    else quiet { s with dec := r }

/-- RECEIVING_BITS of a record that is not Manchester (R140). -/
def bitTick (m : Bool) (d : Desc) (s : State) : TickOut :=
  if s.dec.waitSpace then (if m then bitSpaceEnd d s else bitSpaceOn d s)
  else (if m then bitMarkOn d s else bitMarkEnd d s)

/-! ## STOP_BIT_EXPECTED (R146) -/

/-- The stop mark (R146, R147). -/
def stopTick (m : Bool) (d : Desc) (s : State) : TickOut :=
  if m then
    let p := satInc s.dec.pulseTime
    if atMost p d.p0Pulse.max then quiet { s with dec := { s.dec with pulseTime := p } }
    else abandon s
  else if within s.dec.pulseTime d.p0Pulse then complete s
  else abandon s

/-! ## RECEIVING_BITS, Manchester (R160 to R166) -/

/-- The mark goes on (R162). -/
def manMarkOn (d : Desc) (s : State) : TickOut :=
  let p := satInc s.dec.pulseTime
  if atMost p (if s.dec.manMid then 2 * d.p1Pulse.max else d.p1Pulse.max) then
    quiet { s with dec := { s.dec with pulseTime := p } }
  else abandon s

/-- The mark has ended (R163). -/
def manMarkEnd (d : Desc) (s : State) : TickOut :=
  if d.inS s.dec.pulseTime || (s.dec.manMid && d.inL s.dec.pulseTime) then
    quiet { s with dec := { s.dec with waitSpace := true, pauseTime := 1#16 } }
  else abandon s

/-- A bit stored in the middle of its bit period, or `none` on `overflow` (R166). -/
def storeMid (d : Desc) (w : Bool) (r : DecRegs) : Option (DecRegs × Bool) :=
  if (storeBit d w r).2 then some ((storeBit d w r).1, true) else none

/-- The mark of a pair walks the bit grid (R166): the registers and `mid`, or `none` to fail. -/
def manMark (d : Desc) (r : DecRegs) : Option (DecRegs × Bool) :=
  if !r.manMid then
    if d.inS r.pulseTime then storeMid d true r else none
  else if d.inS r.pulseTime then some (r, false)
  else if d.inL r.pulseTime then storeMid d true r
  else none

/-- The space of a pair walks the bit grid (R166), from the position `mid`. -/
def manSpace (d : Desc) (mid : Bool) (r : DecRegs) : Option (DecRegs × Bool) :=
  if mid then
    if d.inS r.pauseTime then some (r, false)
    else if d.inL r.pauseTime then storeMid d false r
    else none
  else if d.inS r.pauseTime then storeMid d false r
  else none

/-- `man_pair(virtual = true)` (R166): the virtual tick resolves the last bit from its mark alone. -/
def manPairVirtual (d : Desc) (s : State) : TickOut :=
  match manMark d s.dec with
  | none => abandon s
  | some (r, _) =>
    if r.bitpos.toInt = (d.nbits : Int) then complete { s with dec := r } else abandon s

/-- `man_pair(virtual = false)` (R166). -/
def manPair (d : Desc) (s : State) : TickOut :=
  match manMark d s.dec with
  | none => abandonRestart s
  | some (r, mid) =>
    match manSpace d mid r with
    | none => abandonRestart s
    | some (r', mid') =>
      quiet { s with dec := { r' with manMid := mid', pulseTime := 1#16, pauseTime := 0#16,
                                      waitSpace := false } }

/-- The space goes on (R164): the virtual tick fires when it exceeds two half bits. -/
def manSpaceOn (d : Desc) (s : State) : TickOut :=
  let q := satInc s.dec.pauseTime
  if atMost q (2 * d.p1Pulse.max) then quiet { s with dec := { s.dec with pauseTime := q } }
  else manPairVirtual d { s with dec := { s.dec with pauseTime := q } }

/-- RECEIVING_BITS of a Manchester record (R161); R165 is `manPair`. -/
def manTick (m : Bool) (d : Desc) (s : State) : TickOut :=
  if s.dec.waitSpace then (if m then manPair d s else manSpaceOn d s)
  else (if m then manMarkOn d s else manMarkEnd d s)

/-! ## The decoder tick (R110 to R112) -/

/-- The part of a decoder tick that looks at the sample (R110), `m` for mark. -/
def decSample (m : Bool) (s : State) : TickOut :=
  match s.decState with
  | .idle => if m then idleMark s else idleSpace s
  | .startBitSeen => if m then hdrMarkTick s else hdrSpaceTick s
  | .receivingBits =>
    if s.cand.isManchester then manTick m s.cand s else bitTick m s.cand s
  | .stopBitExpected =>
    if s.cand.isManchester then manTick m s.cand s else stopTick m s.cand s

/-- `rep_timer <- sat_inc(rep_timer)`, first in every decoder tick (R111). -/
def countRep (s : State) : State := { s with rep := { s.rep with timer := satInc s.rep.timer } }

/-- `DEC_TICK(sample)` (R110), with the hold of R112. -/
def decTick (sample : Bool) (s : State) : TickOut :=
  let s' := countRep s
  if s'.ready then quiet s' else decSample (sample == s'.cfg.activeIn) s'

/-- Where the rules give a decoder tick no meaning (R63, R21; unreachable by R51): a candidate outside
the table, or a `bitpos` of no named state. -/
def decFault (s : State) : Option Fault :=
  if s.ready || !s.dec.startBitDetected || decide (s.dec.bitpos = bitposIdle) then none
  else if s.dec.bitpos.toInt < 0 then some .noDecState
  else if s.cfg.nproto ≤ s.dec.candIdx.toNat then some .tableIndex
  else none

end Sys2Proof.Machine
end

