-- ==== Sys2Proof/Machine/Encoder.lean ====
section
/-! DEFINITION. The encoder: the start of a send and the encoder tick (44_encoder.md). The meaning of
`SEND` is `execSend`; what a `TICK` does in mode TX is `encTick`. -/

namespace Sys2Proof.Machine

/-! ## The segments (R207 to R218) -/

/-- The first segment of data bit `enc_bitidx` (R211, part A). -/
def loadBitA (d : Desc) (e : EncRegs) : EncRegs :=
  let w := d.wire e.frame e.bitIdx.toNat
  if d.isManchester then { e with dur := d.p1Pulse.exp, level := w }
  else { e with level := true, dur := if w then d.p1Pulse.exp else d.p0Pulse.exp }

/-- The second segment of data bit `enc_bitidx` (R211, part B). -/
def loadBitB (d : Desc) (e : EncRegs) : EncRegs :=
  let w := d.wire e.frame e.bitIdx.toNat
  if d.isManchester then { e with dur := d.p1Pulse.exp, level := !w }
  else { e with level := false, dur := if w then d.p1Pause.exp else d.p0Pause.exp }

/-- The header mark begins (R208, R216). -/
def beginHdrMark (d : Desc) (e : EncRegs) : EncRegs :=
  { e with phase := .hdrMark, level := true,
           dur := if e.rptFrame then d.rptPulse.exp else d.hdrPulse.exp }

/-- The stop mark begins (R210, R214). -/
def beginStopMark (d : Desc) (e : EncRegs) : EncRegs :=
  { e with phase := .stopMark, level := true, dur := d.p0Pulse.exp }

/-- The gap begins (R214, R215). -/
def beginGap (d : Desc) (e : EncRegs) : EncRegs :=
  { e with phase := .gap, level := false, dur := d.gap }

/-- `START` ends (R208). -/
def endStart (d : Desc) (e : EncRegs) : EncRegs := beginHdrMark d e

/-- `HDR_MARK` ends (R209). -/
def endHdrMark (d : Desc) (e : EncRegs) : EncRegs :=
  { e with phase := .hdrSpace, level := false,
           dur := if e.rptFrame then d.rptPause.exp else d.hdrPause.exp }

/-- `HDR_SPACE` ends (R210). -/
def endHdrSpace (d : Desc) (e : EncRegs) : EncRegs :=
  if e.rptFrame then beginStopMark d e
  else loadBitA d { e with phase := .bitA, bitIdx := 0#5 }

/-- `BIT_A` ends (R213). -/
def endBitA (d : Desc) (e : EncRegs) : EncRegs := loadBitB d { e with phase := .bitB }

/-- `BIT_B` ends (R214). -/
def endBitB (d : Desc) (e : EncRegs) : EncRegs :=
  if e.bitIdx.toNat + 1 < d.nbits then
    loadBitA d { e with bitIdx := e.bitIdx + 1#5, phase := .bitA }
  else if d.hasStop then beginStopMark d e
  else beginGap d e

/-- `STOP_MARK` ends (R215). -/
def endStopMark (d : Desc) (e : EncRegs) : EncRegs := beginGap d e

/-- `GAP` ends with repetitions left (R216, R218). -/
def endGapRepeat (d : Desc) (e : EncRegs) : EncRegs :=
  beginHdrMark d { e with repLeft := e.repLeft - 1#4, rptFrame := d.hasRpt }

/-- `GAP` ends with none left (R217): the encoder goes idle. -/
def endGapLast (e : EncRegs) : EncRegs :=
  { e with active := false, level := false, phase := .start, dur := 0#16, sub := 0#8 }

/-- `advance()` (R207): the next segment, and whether the send is finished. -/
def advance (d : Desc) (e : EncRegs) : EncRegs × Bool :=
  match e.phase with
  | .start => (endStart d e, false)
  | .hdrMark => (endHdrMark d e, false)
  | .hdrSpace => (endHdrSpace d e, false)
  | .bitA => (endBitA d e, false)
  | .bitB => (endBitB d e, false)
  | .stopMark => (endStopMark d e, false)
  | .gap => if e.repLeft = 0#4 then (endGapLast e, true) else (endGapRepeat d e, false)

/-! ## The pin (R226) -/

/-- `drive_pin(prev)` (R226). -/
def drivePin (k : Carrier) (prev : Bool) (e : EncRegs) : EncRegs :=
  if e.active && e.level then
    match k with
    | .toggle => { e with pinOn := if prev then !e.pinOn else true }
    | .level => { e with pinOn := true }
  else { e with pinOn := false }

/-! ## The encoder tick (R206, R222) -/

/-- The sub-tick divider and the segment counter of one tick of a send (R206, R222): the encoder
registers before the pin is driven, and whether the send is finished. -/
def encCount (d : Desc) (e : EncRegs) : EncRegs × Bool :=
  let e1 := { e with sub := e.sub - 1#8 }
  if e1.sub = 0#8 then
    let e2 := { e1 with sub := d.nSub, dur := e1.dur - 1#16 }
    if e2.dur = 0#16 then advance d e2 else (e2, false)
  else (e1, false)

/-- `ENC_TICK()` (R206); the finishing tick switches back to receive (R217). -/
def encTick (s : State) : TickOut :=
  if !s.enc.active then quiet { s with enc := { s.enc with pinOn := false } }
  else
    let r := encCount (s.cfg.desc s.enc.desc.toNat) s.enc
    let s' := { s with enc := drivePin s.cfg.carrier s.enc.level r.1 }
    if r.2 then ⟨switchToRx s.arb.snap s', none, false, true⟩ else quiet s'

/-- Where the rules give an encoder tick no meaning (R63, R346(e), R205; unreachable by R51): a record
outside the table, a counter that is 0, or a data bit beyond the frame. -/
def encFault (s : State) : Option Fault :=
  if !s.enc.active then none
  else if s.cfg.nproto ≤ s.enc.desc.toNat then some .tableIndex
  else if s.enc.sub = 0#8 || (s.enc.sub = 1#8 && s.enc.dur = 0#16) then some .counterUnderflow
  else if s.enc.sub = 1#8 && s.enc.dur = 1#16 && s.enc.phase = .bitA &&
      decide ((s.cfg.desc s.enc.desc.toNat).nbits ≤ s.enc.bitIdx.toNat) then some .bitIndex
  else none

/-! ## SEND (R200 to R204) -/

/-- The encoder registers of an accepted `SEND` (R200). -/
def startSend (d : Desc) (i : Nat) (a : BitVec 16) (c : BitVec 32) (n : BitVec 4) : EncRegs :=
  { active := true, desc := BitVec.ofNat 8 i, frame := d.assemble a c, repLeft := n,
    rptFrame := false, phase := .start, bitIdx := 0#5, dur := 1#16, sub := 1#8, level := false,
    pinOn := false }

/-- An accepted `SEND` of record `i` (R200). -/
def acceptSend (i : Nat) (a : BitVec 16) (c : BitVec 32) (n : BitVec 4) (s : State) : State :=
  respondOk { switchToTx i s with enc := startSend (s.cfg.desc i) i a c n }

/-- `SEND p, a, c, n` (R200, R201). -/
def execSend (p : BitVec 8) (a : BitVec 16) (c : BitVec 32) (n : BitVec 4) (s : State) :
    Host.Outcome State Fault Refusal :=
  .next (
    if s.arb.mode = .tx then refuse (txRefusal s) s
    else
      match s.cfg.findProto p with
      | none => refuse .refusedProto s
      | some i => acceptSend i a c n s)

/-! ## The whole send as a list (R219) -/

/-- The segments of data bit `k` (R219): levels, `true` for mark, and durations in logical ticks. -/
def bitSegs (d : Desc) (frame : BitVec 32) (k : Nat) : List (Bool × Nat) :=
  let w := d.wire frame k
  if d.isManchester then [(w, d.p1Pulse.exp.toNat), (!w, d.p1Pulse.exp.toNat)]
  else if w then [(true, d.p1Pulse.exp.toNat), (false, d.p1Pause.exp.toNat)]
  else [(true, d.p0Pulse.exp.toNat), (false, d.p0Pause.exp.toNat)]

/-- The segments of a full frame (R219). -/
def frameSegs (d : Desc) (frame : BitVec 32) : List (Bool × Nat) :=
  [(true, d.hdrPulse.exp.toNat), (false, d.hdrPause.exp.toNat)] ++
  (List.range d.nbits).flatMap (bitSegs d frame) ++
  (if d.hasStop then [(true, d.p0Pulse.exp.toNat)] else []) ++
  [(false, d.gap.toNat)]

/-- The segments of a repeat code (R218, R219). -/
def repeatSegs (d : Desc) : List (Bool × Nat) :=
  [(true, d.rptPulse.exp.toNat), (false, d.rptPause.exp.toNat), (true, d.p0Pulse.exp.toNat),
   (false, d.gap.toNat)]

/-- The segments of a whole send: one full frame and `reps` repetitions (R203, R219). -/
def sendSegs (d : Desc) (frame : BitVec 32) (reps : Nat) : List (Bool × Nat) :=
  frameSegs d frame ++
  (List.replicate reps (if d.hasRpt then repeatSegs d else frameSegs d frame)).flatten

/-- The sum of the durations of a list of segments. -/
def segsLength (l : List (Bool × Nat)) : Nat := (l.map Prod.snd).sum

/-- `T_send` (R219). -/
def sendTicks (d : Desc) (frame : BitVec 32) (reps : Nat) : Nat :=
  1 + d.nSub.toNat * segsLength (sendSegs d frame reps)

end Sys2Proof.Machine
end

