-- ==== Sys2Proof/Machine/Arbiter.lean ====
section
/-! DEFINITION. The timer arbiter: the meanings of `TICK`, `CFG_RX`, `CFG_TX` and `RESTORE`
(45_timer_arbiter.md). -/

namespace Sys2Proof.Machine

/-- One tick goes to exactly one of the two state machines, by `mode` (R240). -/
def tickOut (sample : Bool) (s : State) : TickOut :=
  match s.arb.mode with
  | .tx => encTick s
  | .rx => decTick sample s

/-- Where the rules give a tick no meaning: states that R51 makes unreachable. -/
def tickFault (s : State) : Option Fault :=
  match s.arb.mode with
  | .tx => encFault s
  | .rx => decFault s

/-- `TICK s` (R240). -/
def execTick (sample : Bool) (s : State) : Host.Outcome State Fault Refusal :=
  match tickFault s with
  | some f => .fault f
  | none => .next (tickOut sample s).finish

/-- `CFG_RX` (R243). -/
def execCfgRx (s : State) : Host.Outcome State Fault Refusal :=
  .next (
    if s.enc.active then refuse .refusedBusy s
    else respondOk { s with arb := { s.arb with timerCfg := Config.tcfgOf s.cfg.fRxCode,
                                                mode := .rx } })

/-- `CFG_TX p` (R244). -/
def execCfgTx (p : BitVec 8) (s : State) : Host.Outcome State Fault Refusal :=
  .next (
    if s.arb.mode = .tx then refuse (txRefusal s) s
    else
      match s.cfg.findProto p with
      | none => refuse .refusedProto s
      | some i =>
        let s' := switchToTx i s
        respond (response .ok (s'.arb.snap.zeroExtend 60)) s')

/-- `RESTORE v` (R246). -/
def execRestore (v : BitVec 32) (s : State) : Host.Outcome State Fault Refusal :=
  .next (if s.enc.active then refuse .refusedBusy s else respondOk (switchToRx v s))

end Sys2Proof.Machine
end

