-- ==== Sys2Proof/Machine/HostOps.lean ====
section
/-! DEFINITION. The host operations `GET_RESULT`, `RD_STATUS`, `SET_CB`, `NOP`, and the answer to an
illegal word (46_host_ops.md). -/

namespace Sys2Proof.Machine

/-- `GET_RESULT` (R260). -/
def execGetResult (s : State) : Host.Outcome State Fault Refusal :=
  .next (
    if s.ready then respond (response .ok (recordPayload s.res)) { s with ready := false }
    else respond (response .none 0#60) s)

/-- `RD_STATUS` (R262). -/
def execRdStatus (s : State) : Host.Outcome State Fault Refusal :=
  .next (respond (response .ok (statusPayload s)) s)

/-- `SET_CB e` (R263). -/
def execSetCb (e : Bool) (s : State) : Host.Outcome State Fault Refusal :=
  .next (respondOk { s with cbEn := e })

/-- `NOP` (R264). -/
def execNop (s : State) : Host.Outcome State Fault Refusal := .next (respondOk s)

/-- An illegal word (R265): the status `ILLEGAL`, no other change; it is not a tick. -/
def illegalWord (s : State) : State := refuse .illegal s

end Sys2Proof.Machine
end

