-- ==== Sys2Proof/Machine/Dispatch.lean ====
section
/-! DEFINITION. One arm per operation of the opcode table. -/

namespace Sys2Proof.Machine
open Sys2Proof

def exec (i : Instr) (s : State) : Host.Outcome State Fault Refusal :=
  match i with
  | .nop => Sys2Proof.Machine.execNop s
  | .tick b => Sys2Proof.Machine.execTick b s
  | .send p a c n => Sys2Proof.Machine.execSend p a c n s
  | .getResult => Sys2Proof.Machine.execGetResult s
  | .rdStatus => Sys2Proof.Machine.execRdStatus s
  | .setCb e => Sys2Proof.Machine.execSetCb e s
  | .cfgRx => Sys2Proof.Machine.execCfgRx s
  | .cfgTx p => Sys2Proof.Machine.execCfgTx p s
  | .restore v => Sys2Proof.Machine.execRestore v s

end Sys2Proof.Machine
end

