-- ==== Sys2Proof/Machine/Fetch.lean ====
section
/-! DEFINITION. What step does with an input: running an operation word, resetting, taking a pending
tick; and how the outside world presents a tick (20_memory.md R65 to R67, 60_exceptions.md R303,
70_reset_and_hazards.md R330). -/

namespace Sys2Proof.Machine

/-- An operation word is decoded and run; an illegal one is answered (R90, R265). -/
def runWord (w : Word) (s : State) : Host.Outcome State Fault Refusal :=
  match decode w with
  | .ok i => exec i s
  | .illegal _ => .next (illegalWord s)

/-- The reset input (R330, R332): every register at its reset value, the configuration kept, and
whatever the outside presents afterwards still to come (notes/assumptions/6.md). -/
def applyReset (rest : List Input) (s : State) : State :=
  { State.resetWith s.cfg with input := rest }

/-- One step: the reset input when it comes next, before a pending tick (R330); else the pending tick, taken before the
next operation (R66, R67, R303); else the next operation; with nothing presented the block does nothing
(R330). -/
def stepInput (s : State) : Host.Outcome State Fault Refusal :=
  match s.input, s.tickPending with
  | .reset :: rest, _ => .next (applyReset rest s)
  | _, some b => exec (.tick b) { s with tickPending := none }
  | .op w :: rest, none => runWord w { s with input := rest }
  | [], none => .next s

/-- A tick falls due while a host operation is in progress (R66, R303): it is held pending; a second
one before the first is taken is lost. The outside world's move, between steps. -/
def State.tickDue (b : Bool) (s : State) : State :=
  match s.tickPending with
  | none => { s with tickPending := some b }
  | some _ => s

/-- The outside world presents operations, in order (R65, R67). -/
def State.present (ops : List Instr) (s : State) : State :=
  { s with input := s.input ++ ops.map fun i => .op (encode i) }

/-- The operation word of the bits `w` of a table row is presented as the next thing to run. -/
def presentNext (w : Word) (s : State) : State :=
  { s with tickPending := none, input := .op w :: s.input }

/-- A sequence of operations run from a state, stopping at the first that stops. -/
def execAll : List Instr → State → Host.Outcome State Fault Refusal
  | [], s => .next s
  | i :: is, s =>
    match exec i s with
    | .next s' => execAll is s'
    | .fault f => .fault f
    | .refused r => .refused r

/-- The responses of a sequence of operations, in order, as far as they run. -/
def responses : List Instr → State → List (Option Word)
  | [], _ => []
  | i :: is, s =>
    match exec i s with
    | .next s' => s'.resp :: responses is s'
    | .fault _ => []
    | .refused _ => []

end Sys2Proof.Machine
end

