-- ==== Sys2Proof/Machine/Step.lean ====
section
/-! DEFINITION. One step of the machine, and where its next instruction is fetched. -/

namespace Sys2Proof.Machine

/-- One step (R65, R66): one input is taken and run to its end. -/
def step (s : State) : Host.Outcome State Fault Refusal := stepInput s

/-- `s` with the operation word of the bits `w` as the next thing that step takes
(notes/assumptions/1.md). -/
def State.withFetchWord (s : State) (nbits w : Nat) : State := presentNext (tableWord nbits w) s

end Sys2Proof.Machine
end

