-- ==== Sys2Proof/Safety.lean ====
section
/-! DEFINITION. What counts as a good state and a safe run (10_state.md R51), and the words in which the
statements describe a next state: written from the rules, not from the meanings. -/

namespace Sys2Proof.Machine

/-! ## The invariants -/

/-- The record of the send in progress. -/
def State.encDesc (s : State) : Desc := s.cfg.desc s.enc.desc.toNat

/-- I1 of R51. -/
abbrev State.I1 (s : State) : Prop := s.enc.active = true → s.arb.mode = .tx
/-- I2 of R51. -/
abbrev State.I2 (s : State) : Prop :=
  s.enc.active = true → 1 ≤ s.enc.sub.toNat ∧ 1 ≤ s.enc.dur.toNat ∧ s.enc.desc.toNat < s.cfg.nproto
/-- I3 of R51. -/
abbrev State.I3 (s : State) : Prop :=
  (0 ≤ s.dec.bitpos.toInt ↔ s.dec.candValid = true) ∧
  (s.dec.candValid = true → s.dec.candIdx.toNat < s.cfg.nproto)
/-- I4 of R51. -/
abbrev State.I4 (s : State) : Prop := 0 ≤ s.dec.bitpos.toInt → s.dec.startBitDetected = true
/-- I5 of R51. -/
abbrev State.I5 (s : State) : Prop :=
  s.dec.candValid = true → -1 ≤ s.dec.bitpos.toInt ∧ s.dec.bitpos.toInt ≤ (s.nbitsEff : Int)
/-- I6 of R51. -/
abbrev State.I6 (s : State) : Prop :=
  s.dec.startBitDetected = false →
    s.dec.bitpos.toInt = -1 ∧ s.dec.pauseTime = 0#16 ∧ s.dec.waitSpace = false ∧ s.dec.data = 0#32
/-- I7 of R51. -/
abbrev State.I7 (s : State) : Prop :=
  s.ready = true → s.decState = .idle ∧ s.dec.pulseTime = 0#16
/-- I8 of R51. -/
abbrev State.I8 (s : State) : Prop :=
  s.dec.rpt = true → s.cand.hasRpt = true ∧ s.dec.bitpos.toInt = 0
/-- I9 of R51. -/
abbrev State.I9 (s : State) : Prop := s.res.flags.extractLsb' 1 3 = 0#3
/-- I10 of R51. -/
abbrev State.I10 (s : State) : Prop :=
  s.enc.active = false → s.enc.pinOn = false ∧ s.enc.level = false

/-- The model's own: without a candidate `bitpos` is −1 (R26), so the decoder is in a named state. -/
abbrev State.J1 (s : State) : Prop := s.dec.candValid = false → s.dec.bitpos = bitposIdle
/-- The model's own: a repeat code is sent only for a descriptor that has one (R216). -/
abbrev State.J2 (s : State) : Prop :=
  s.enc.active = true → s.enc.rptFrame = true → s.encDesc.hasRpt = true
/-- The model's own: the data bit being sent is a bit of the frame (R211, R214). -/
abbrev State.J3 (s : State) : Prop :=
  s.enc.active = true → s.enc.phase = .bitA ∨ s.enc.phase = .bitB →
    s.enc.bitIdx.toNat < s.encDesc.nbits
/-- The model's own: a frame without stop bit that is not Manchester has a bit to come (R144). -/
abbrev State.J4 (s : State) : Prop :=
  s.dec.candValid = true → s.cand.isManchester = false → s.cand.hasStop = false →
    s.dec.bitpos.toInt < (s.cand.nbits : Int)

/-- The ten invariants of R51. -/
abbrev State.R51 (s : State) : Prop :=
  s.I1 ∧ s.I2 ∧ s.I3 ∧ s.I4 ∧ s.I5 ∧ s.I6 ∧ s.I7 ∧ s.I8 ∧ s.I9 ∧ s.I10

/-- The invariants of R51 together with the four the model adds to make them inductive. -/
abbrev State.Inv (s : State) : Prop := s.R51 ∧ s.J1 ∧ s.J2 ∧ s.J3 ∧ s.J4

/-- A good state: built with a configuration a build accepts (R10), and the invariants hold. -/
abbrev State.Good (s : State) : Prop := s.cfg.WF ∧ s.Inv

/-- A step that neither faults nor refuses: the block has no faults (R300). -/
def Safe (s : State) : Prop := ∃ t, step s = .next t

/-! ## Words for the statements -/

/-- The status of a response word, `r[63:60]` (R91). -/
def statusOf (r : Word) : BitVec 4 := r.extractLsb' 60 4

/-- The sample that reads as a mark (`true`) or a space (`false`) (R16). -/
def State.sample (s : State) (mark : Bool) : Bool := if mark then s.cfg.activeIn else !s.cfg.activeIn

/-- The decoder looks at samples: mode RX and no result pending (R112, R240). -/
abbrev State.Listening (s : State) : Prop := s.arb.mode = .rx ∧ s.ready = false

/-- A decoder tick that answers NONE and leaves the frame registers `r` (R110, R111). -/
def State.rxNone (s : State) (r : DecRegs) : State :=
  { s with dec := r, rep := { s.rep with timer := satInc s.rep.timer },
           resp := some 0x1000000000000000#64 }

/-- The frame registers after `abandon_restart` (R114). -/
def DecRegs.restarted : DecRegs := { DecRegs.cleared with pulseTime := 1#16 }

/-- A full frame of `d` with the bits `data` completes in this decoder tick (R180 to R185): the result,
`last_*`, the repeat timer, the cleared frame registers, the response of R92. -/
def State.afterFullFrame (s : State) (d : Desc) (data : BitVec 32) : State :=
  let a := (d.extract data).1
  let c := (d.extract data).2
  let repeated := decide (d.hasRpt = false ∧ s.rep.lastValid = true ∧ s.rep.lastProto = d.id ∧
    s.rep.lastAddr = a ∧ s.rep.lastCmd = c ∧ (satInc s.rep.timer).toNat ≤ d.repWindow.toNat)
  { s with dec := .cleared, res := ⟨d.id, a, c, 0#3 ++ BitVec.ofBool repeated⟩, ready := true,
           rep := ⟨0#16, true, d.id, a, c⟩,
           resp := some (0x0#4 ++ d.id ++ a ++ c ++
             (0#1 ++ BitVec.ofBool s.cbEn ++ 0#1 ++ BitVec.ofBool repeated)) }

/-- A repeat code completes in this decoder tick and repeats the last result (R186). -/
def State.afterRepeatCode (s : State) : State :=
  { s with dec := .cleared, res := ⟨s.rep.lastProto, s.rep.lastAddr, s.rep.lastCmd, 0x1#4⟩,
           ready := true, rep := { s.rep with timer := 0#16 },
           resp := some (0x0#4 ++ s.rep.lastProto ++ s.rep.lastAddr ++ s.rep.lastCmd ++
             (0#1 ++ BitVec.ofBool s.cbEn ++ 0#1 ++ 1#1)) }

/-- The wire bits `ws`, oldest first, shifted into `data` as stored bits (R34, R123). -/
def shiftIn (d : Desc) (data : BitVec 32) (ws : List Bool) : BitVec 32 :=
  ws.foldl (fun x w => (x <<< 1) ||| (BitVec.ofBool (w ^^ d.inv)).zeroExtend 32) data

/-- The normal header of `d` (R121). -/
abbrev Normal (d : Desc) (p q : Half) : Prop := d.hdrPulse.Has p ∧ d.hdrPause.Has q
/-- The header of a Manchester frame whose first wire bit is 0 (R121). -/
abbrev Shifted (d : Desc) (p q : Half) : Prop :=
  d.isManchester = true ∧ d.hdrPulse.Has p ∧ d.hdrPause.min + d.p1Pulse.min ≤ (q.toNat : Int) ∧
    (q.toNat : Int) ≤ d.hdrPause.max + d.p1Pulse.max
/-- The repeat header of `d` (R121). -/
abbrev Rpt (d : Desc) (p q : Half) : Prop :=
  d.hasRpt = true ∧ d.rptPulse.Has p ∧ d.rptPause.Has q
/-- The header fits no kind of `d`. -/
abbrev NoHeader (d : Desc) (p q : Half) : Prop := ¬ Normal d p q ∧ ¬ Shifted d p q ∧ ¬ Rpt d p q

/-- A half bit (R24). -/
abbrev Short (d : Desc) (v : Half) : Prop := d.p1Pulse.Has v
/-- Two half bits (R24). -/
abbrev Long (d : Desc) (v : Half) : Prop :=
  2 * d.p1Pulse.min ≤ (v.toNat : Int) ∧ (v.toNat : Int) ≤ 2 * d.p1Pulse.max

/-- The length of the space after the header mark of a frame as sent (R212): a Manchester frame whose
first wire bit is 0 lengthens it by a half bit. -/
def headerSpace (d : Desc) (frame : BitVec 32) : Nat :=
  d.hdrPause.exp.toNat +
    (if d.isManchester && !(d.wire frame 0) then d.p1Pulse.exp.toNat else 0)

/-- The samples of a frame as sent (R219) that come before the tick that emits the result (R228). -/
def samplesBeforeEmit (d : Desc) (frame : BitVec 32) : Nat :=
  let beforeGap := segsLength (frameSegs d frame) - d.gap.toNat
  if d.isManchester then
    beforeGap - (if d.wire frame (d.nbits - 1) then d.p1Pulse.exp.toNat else 0) +
      2 * (d.p1Pulse.exp.toNat + d.p1Pulse.tol.toNat)
  else if d.hasStop then beforeGap
  else beforeGap - d.p1Pause.exp.toNat + (d.p1Pause.exp.toNat + d.p1Pause.tol.toNat)

/-- `pin_on` after an encoder tick that leaves the envelope at `mark` (R226): high in a mark, except that
with `CARRIER = TOGGLE` it goes low again after a tick of the same mark in which it was high. -/
def State.pinNext (s : State) (mark : Bool) : Bool :=
  mark && !(decide (s.cfg.carrier = .toggle) && s.enc.level && s.enc.pinOn)

/-- An encoder tick of a send that goes on: it leaves the registers `e`, drives the pin and answers NONE
(R206, R226). -/
def State.txNone (s : State) (e : EncRegs) : State :=
  { s with enc := { e with pinOn := s.pinNext e.level }, resp := some 0x1000000000000000#64 }

/-- The encoder tick that ends a segment: `enc_sub` is reloaded, the next segment `e` begins (R206,
R207). -/
def State.newSegment (s : State) (e : EncRegs) : State :=
  s.txNone { e with sub := s.encDesc.nSub }

/-- The tick that ends the current segment of a send is due (R206). -/
abbrev State.SegmentEnds (s : State) : Prop :=
  s.enc.active = true ∧ s.enc.sub = 1#8 ∧ s.enc.dur = 1#16

/-- The envelope of a list of segments, one entry a logical tick (R219). -/
def envelope (l : List (Bool × Nat)) : List Bool := l.flatMap fun p => List.replicate p.2 p.1

/-- The words of R90: an opcode above 8, or a bit that R81 to R89 reserve is 1. -/
abbrev Reserved (w : Word) : Prop :=
  9 ≤ (w.extractLsb' 60 4).toNat ∨
  ((w.extractLsb' 60 4).toNat ∈ [0, 3, 4, 6] ∧ w.extractLsb' 0 60 ≠ 0#60) ∨
  ((w.extractLsb' 60 4).toNat ∈ [1, 5] ∧ w.extractLsb' 1 59 ≠ 0#59) ∨
  ((w.extractLsb' 60 4).toNat = 7 ∧ w.extractLsb' 0 52 ≠ 0#52) ∨
  ((w.extractLsb' 60 4).toNat = 8 ∧ w.extractLsb' 32 28 ≠ 0#28)

/-- Where the arbiter stands (R252): `mode` and `enc_active`. -/
def State.arbState (s : State) : Mode × Bool := (s.arb.mode, s.enc.active)

/-- The protocol is in the table (R200, R244). -/
abbrev State.Knows (s : State) (p : BitVec 8) : Prop := ∃ d ∈ s.cfg.table, d.id = p

/-- An operation that writes neither `timer_cfg` nor `mode` while no send is in progress (R249). -/
def QuietOp : Instr → Prop
  | .tick _ => True
  | .nop => True
  | .rdStatus => True
  | .getResult => True
  | .setCb _ => True
  | .send _ _ _ _ => False
  | .cfgRx => False
  | .cfgTx _ => False
  | .restore _ => False

end Sys2Proof.Machine
end

