-- ==== Sys2Proof/Certificates/Slice0/Obligations.lean ====
section
/-! DEFINITION. The statements for the provers, in the order of spec/: encoding, presentation and reset,
host operations, arbiter, encoder, decoder, results, invariants. -/

open Sys2Proof Sys2Proof.Machine

/-! ## Operation words and the table (30_encoding.md, 20_memory.md) -/

/-- Decoding the word of any operation, with every operand at every value, gives it back (R81 to R89). -/
def Obligations.DecodeOfEncode : Prop :=
  ∀ i : Instr, i.WF → decode (encode i) = .ok i

/-- A word that decodes is the word of its operation: no bit is dropped (R80 to R90). -/
def Obligations.EncodeOfDecode : Prop :=
  ∀ (w : Word) (i : Instr), decode w = .ok i → encode i = w

/-- The decoder agrees with the match and mask of every row of the opcode table (R99). -/
def Obligations.DecodeMatchesOpcodeTable : Prop :=
  ∀ (w : Word) (r : OpRow), r ∈ opcodeTable →
    (r.covers w = true ↔ ∃ i, decode w = .ok i ∧ i.mnemonic = r.mnemonic)

/-- R90, R265: the illegal words are those with an opcode above 8 or a reserved bit set; an illegal word
is answered ILLEGAL with payload 0, and nothing changes: in particular it is not a tick. -/
def Obligations.IllegalWordsAreAnswered : Prop :=
  (∀ w : Word, (∃ e, decode w = .illegal e) ↔ Reserved w) ∧
  (∀ w : Word, Reserved w ∨ ∃ i, decode w = .ok i) ∧
  (∀ (w : Word) (s : State) (rest : List Input), Reserved w → s.tickPending = none →
    s.input = .op w :: rest →
    step s = .next { s with input := rest, resp := some 0xF000000000000000#64 })

/-- The example words of R81 to R89, read from the text of those rules. -/
def Obligations.SampleWordsDecode : Prop :=
  decode 0x0000000000000000#64 = .ok .nop ∧
  decode 0x1000000000000001#64 = .ok (.tick true) ∧
  decode 0x1000000000000000#64 = .ok (.tick false) ∧
  decode 0x201000A000000050#64 = .ok (.send 1 0xA 0x5 0) ∧
  decode 0x3000000000000000#64 = .ok .getResult ∧
  decode 0x4000000000000000#64 = .ok .rdStatus ∧
  decode 0x5000000000000001#64 = .ok (.setCb true) ∧
  decode 0x6000000000000000#64 = .ok .cfgRx ∧
  decode 0x7010000000000000#64 = .ok (.cfgTx 1) ∧
  decode 0x800000000001076C#64 = .ok (.restore 0x1076C)

/-- R62: an operation word as eight bytes, `w[7:0]` first, decodes as the word does. That the bytes after
the eighth are left is the model's choice, not R62's (notes/assumptions/16.md). -/
def Obligations.WordsAsBytes : Prop :=
  ∀ (w : Word) (rest : List Byte),
    decodeBytes (bytesOfWord w ++ rest) =
      (match decode w with
       | .ok i => .ok (i, rest)
       | .illegal e => .illegal e) ∧
    ∀ k < 8, (bytesOfWord w)[k]? = some (w.extractLsb' (8 * k) 8)

/-- R13, R60, R61, R95: record `i` occupies halfwords `22*i` to `22*i + 21`, each field of the record at the
halfword and the bits that R95's table gives it; the table ends at `22*NPROTO - 1`, nothing else is
addressable, and a record's 22 halfwords say exactly what it is. -/
def Obligations.RecordImageLayout : Prop :=
  (∀ (c : Config) (i k : Nat), i < c.nproto → k < 22 →
    c.memRead (22 * i + k) = (c.desc i).halfwords[k]?) ∧
  (∀ (c : Config) (a : Nat), c.memRead a = none ↔ 22 * c.nproto ≤ a) ∧
  (∀ d : Desc, Desc.ofHalfwords d.halfwords = some d) ∧
  (∀ (hs : List Half) (d : Desc), Desc.ofHalfwords hs = some d → d.halfwords = hs) ∧
  (∀ (c : Config) (i : Nat), i < c.nproto →
    (∃ h0 h1 h2 : Half, c.memRead (22 * i) = some h0 ∧ c.memRead (22 * i + 1) = some h1 ∧
      c.memRead (22 * i + 2) = some h2 ∧
      h0.extractLsb' 0 8 = (c.desc i).id ∧ h0.extractLsb' 8 8 = (c.desc i).flags ∧
      h1.extractLsb' 0 8 = (c.desc i).addrBits ∧ h1.extractLsb' 8 8 = (c.desc i).cmdBits ∧
      h2.extractLsb' 0 8 = (c.desc i).nSub ∧ h2.extractLsb' 8 8 = (c.desc i).rsvd) ∧
    c.memRead (22 * i + 3) = some (c.desc i).hdrPulse.exp ∧
    c.memRead (22 * i + 4) = some (c.desc i).hdrPulse.tol ∧
    c.memRead (22 * i + 5) = some (c.desc i).hdrPause.exp ∧
    c.memRead (22 * i + 6) = some (c.desc i).hdrPause.tol ∧
    c.memRead (22 * i + 7) = some (c.desc i).p1Pulse.exp ∧
    c.memRead (22 * i + 8) = some (c.desc i).p1Pulse.tol ∧
    c.memRead (22 * i + 9) = some (c.desc i).p1Pause.exp ∧
    c.memRead (22 * i + 10) = some (c.desc i).p1Pause.tol ∧
    c.memRead (22 * i + 11) = some (c.desc i).p0Pulse.exp ∧
    c.memRead (22 * i + 12) = some (c.desc i).p0Pulse.tol ∧
    c.memRead (22 * i + 13) = some (c.desc i).p0Pause.exp ∧
    c.memRead (22 * i + 14) = some (c.desc i).p0Pause.tol ∧
    c.memRead (22 * i + 15) = some (c.desc i).rptPulse.exp ∧
    c.memRead (22 * i + 16) = some (c.desc i).rptPulse.tol ∧
    c.memRead (22 * i + 17) = some (c.desc i).rptPause.exp ∧
    c.memRead (22 * i + 18) = some (c.desc i).rptPause.tol ∧
    c.memRead (22 * i + 19) = some (c.desc i).gap ∧
    c.memRead (22 * i + 20) = some (c.desc i).repWindow ∧
    c.memRead (22 * i + 21) = some (c.desc i).txRate)

/-! ## Presentation, reset (20_memory.md, 60_exceptions.md, 70_reset_and_hazards.md) -/

/-- A step runs the decoded operation: with no tick pending, the next word is taken and `exec` runs what
it decodes to. What stands at the head of the input, and `withFetchWord`, are the model's form of the
input (notes/assumptions/1.md). -/
def Obligations.StepRunsDecodedOperation : Prop :=
  (∀ (s : State) (w : Word) (rest : List Input) (i : Instr), i.WF → s.tickPending = none →
    s.input = .op w :: rest → decode w = .ok i → step s = exec i { s with input := rest }) ∧
  (∀ (s : State) (n w : Nat) (i : Instr), i.WF → decodeTableWord n w = some i →
    step (s.withFetchWord n w) = exec i { s with tickPending := none })

/-- A pending tick is taken before the next operation, with its sample, and taking it clears the pending
state; a tick that falls due is held, and a second one before the first is taken is lost (R66, R67, R303).
That the sample is the one presented with the tick, and that the reset input goes first, is the model's
choice (notes/assumptions/5.md and 6.md). -/
def Obligations.StepTakesPendingTickFirst : Prop :=
  (∀ (s : State) (b : Bool), s.tickPending = some b → (∀ rest, s.input ≠ .reset :: rest) →
    step s = exec (.tick b) { s with tickPending := none }) ∧
  (∀ (s : State) (b : Bool), s.tickPending = none →
    s.tickDue b = { s with tickPending := some b }) ∧
  (∀ (s : State) (b b' : Bool), s.tickPending = some b' → s.tickDue b = s)

/-- R330, R332: the reset input puts every register to its reset value, whatever the block was doing. What
it does to the input, the pending tick and the last response is the model's choice
(notes/assumptions/6.md). -/
def Obligations.StepAppliesReset : Prop :=
  ∀ (s : State) (rest : List Input), s.input = .reset :: rest →
    step s = .next { State.resetWith s.cfg with input := rest }

/-- R52: every register after reset. `timer_cfg` and `snap` are `TCFG_RESET`, any value. -/
def Obligations.ResetRegisterValues : Prop :=
  ∀ c : Config, ∃ s, s = State.resetWith c ∧
    s.dec.bitpos.toInt = -1 ∧ s.dec.pulseTime = 0#16 ∧ s.dec.pauseTime = 0#16 ∧
    s.dec.startBitDetected = false ∧ s.dec.waitSpace = false ∧ s.dec.candValid = false ∧
    s.dec.candIdx = 0#8 ∧ s.dec.rpt = false ∧ s.dec.manMid = false ∧ s.dec.data = 0#32 ∧
    s.rep.timer = 0xFFFF#16 ∧ s.rep.lastValid = false ∧ s.rep.lastProto = 0#8 ∧
    s.rep.lastAddr = 0#16 ∧ s.rep.lastCmd = 0#32 ∧
    s.res.proto = 0#8 ∧ s.res.addr = 0#16 ∧ s.res.cmd = 0#32 ∧ s.res.flags = 0#4 ∧
    s.ready = false ∧ s.cbEn = false ∧
    s.enc.active = false ∧ s.enc.desc = 0#8 ∧ s.enc.frame = 0#32 ∧ s.enc.repLeft = 0#4 ∧
    s.enc.rptFrame = false ∧ s.enc.phase = .start ∧ s.enc.bitIdx = 0#5 ∧ s.enc.dur = 0#16 ∧
    s.enc.sub = 0#8 ∧ s.enc.level = false ∧ s.enc.pinOn = false ∧
    s.arb.mode = .rx ∧ s.arb.timerCfg = c.tcfgReset ∧ s.arb.snap = c.tcfgReset ∧
    s.decState = .idle ∧ s.outDir = .in_ ∧ s.pin = !c.activeOut

/-- R330: the block does nothing until it is given an operation. That a step with nothing presented stays
where it is, is the model's form of that (notes/assumptions/1.md). -/
def Obligations.StepWaitsForInput : Prop :=
  ∀ s : State, s.input = [] → s.tickPending = none → step s = .next s

/-! ## Host operations (46_host_ops.md) -/

/-- R264: `NOP` is the all-zero word; it reads and writes nothing and answers OK; no counter advances. -/
def Obligations.NopAnswersOk : Prop :=
  decode 0#64 = .ok .nop ∧ ∀ s : State, exec .nop s = .next { s with resp := some 0#64 }

/-- R260: a pending result is returned by exactly one `GET_RESULT`, whole, and stays in the result
register; with none pending the answer is NONE and nothing changes. -/
def Obligations.GetResultTakesTheResult : Prop :=
  (∀ s : State, s.ready = true →
    exec .getResult s = .next { s with
      ready := false,
      resp := some (0x0#4 ++ s.res.proto ++ s.res.addr ++ s.res.cmd ++ s.res.flags) }) ∧
  (∀ s : State, s.ready = false →
    exec .getResult s = .next { s with resp := some 0x1000000000000000#64 }) ∧
  (∀ s t : State, exec .getResult s = .next t →
    exec .getResult t = .next { t with resp := some 0x1000000000000000#64 })

/-- R262: `RD_STATUS` answers the four bits as they are and writes nothing; busy with mode 0 does not
occur in a state that meets R51. -/
def Obligations.RdStatusReadsFourBits : Prop :=
  (∀ s : State, exec .rdStatus s = .next { s with
    resp := some (0x0#4 ++ 0#56 ++ BitVec.ofBool s.cbEn ++ BitVec.ofBool (decide (s.arb.mode = .tx)) ++
      BitVec.ofBool s.enc.active ++ BitVec.ofBool s.ready) }) ∧
  (∀ s : State, s.Inv → ¬(s.enc.active = true ∧ s.arb.mode = .rx))

/-- R263: `SET_CB` writes `cb_en` and nothing else. -/
def Obligations.SetCbWritesCbEn : Prop :=
  ∀ (s : State) (e : Bool), exec (.setCb e) s = .next { s with cbEn := e, resp := some 0#64 }

/-! ## The arbiter (45_timer_arbiter.md) -/

/-- R243: `CFG_RX` sets the receive configuration and mode RX and leaves `snap` and all else alone; during
a send it is refused; it is idempotent. -/
def Obligations.CfgRxConfiguresReceive : Prop :=
  (∀ s : State, s.enc.active = false →
    exec .cfgRx s = .next { s with
      arb := { mode := .rx, timerCfg := Config.tcfgOf s.cfg.fRxCode, snap := s.arb.snap },
      resp := some 0#64 }) ∧
  (∀ s : State, s.enc.active = true →
    exec .cfgRx s = .next { s with resp := some 0x2000000000000000#64 }) ∧
  (∀ s t : State, s.enc.active = false → exec .cfgRx s = .next t → exec .cfgRx t = .next t)

/-- R244, R245: `CFG_TX p` in mode RX, for a protocol of the table, captures `timer_cfg`, loads the
protocol's send configuration, enters mode TX, clears the frame registers and answers the snapshot. -/
def Obligations.CfgTxSwitchesToSend : Prop :=
  (∀ (s : State) (p : BitVec 8) (i : Nat), s.cfg.WF → s.arb.mode = .rx → i < s.cfg.nproto →
    (s.cfg.desc i).id = p →
    exec (.cfgTx p) s = .next { s with
      dec := .cleared,
      arb := { mode := .tx, timerCfg := Config.tcfgOf (s.cfg.desc i).txRate, snap := s.arb.timerCfg },
      resp := some (0x0#4 ++ 0#28 ++ s.arb.timerCfg) }) ∧
  (∀ (s : State) (p : BitVec 8), s.arb.mode = .rx → ¬ s.Knows p →
    exec (.cfgTx p) s = .next { s with resp := some 0x4000000000000000#64 }) ∧
  (∀ (s : State) (p : BitVec 8), s.arb.mode = .tx →
    exec (.cfgTx p) s = .next { s with
      resp := some (if s.enc.active then 0x2000000000000000#64 else 0x3000000000000000#64) })

/-- R246: `RESTORE v` writes `timer_cfg` and mode RX, in either mode, and nothing else; during a send it
is refused. -/
def Obligations.RestoreWritesTimerConfig : Prop :=
  (∀ (s : State) (v : BitVec 32), s.enc.active = false →
    exec (.restore v) s = .next { s with
      arb := { mode := .rx, timerCfg := v, snap := s.arb.snap }, resp := some 0#64 }) ∧
  (∀ (s : State) (v : BitVec 32), s.enc.active = true →
    exec (.restore v) s = .next { s with resp := some 0x2000000000000000#64 })

/-- R249: after a `CFG_TX` answered OK with payload `v`, any number of `TICK`, `NOP`, `RD_STATUS`,
`GET_RESULT` and `SET_CB`, and `RESTORE v`, `timer_cfg` and `mode` are what they were, and `snap` holds
`v`; and across an accepted `SEND` and the ticks up to its end they return as well. -/
def Obligations.SnapshotRestoresConfiguration : Prop :=
  (∀ (s t : State) (p : BitVec 8) (v : BitVec 32) (ops : List Instr), s.Good →
    exec (.cfgTx p) s = .next t → t.resp = some (0x0#4 ++ 0#28 ++ v) → (∀ i ∈ ops, QuietOp i) →
    ∃ u, execAll ops t = .next u ∧ u.dec = .cleared ∧
      exec (.restore v) u = .next { u with
        arb := { mode := s.arb.mode, timerCfg := s.arb.timerCfg, snap := v }, resp := some 0#64 }) ∧
  (∀ (s t u : State) (p : BitVec 8) (a : BitVec 16) (c : BitVec 32) (n : BitVec 4) (bs : List Bool),
    s.Good → exec (.send p a c n) s = .next t → t.resp = some 0#64 →
    execAll (bs.map .tick) t = .next u → u.enc.active = false →
    u.arb.timerCfg = s.arb.timerCfg ∧ u.arb.mode = s.arb.mode)

/-- R240, R50: one tick goes to one of the two machines: in mode TX the sample is not looked at and no
decoder or result register changes, in mode RX no encoder or arbiter register changes; neither changes
`cb_en`. -/
def Obligations.TickGoesToOneMachine : Prop :=
  (∀ (s t : State) (b : Bool), s.arb.mode = .tx → exec (.tick b) s = .next t →
    exec (.tick (!b)) s = .next t ∧ t.dec = s.dec ∧ t.rep = s.rep ∧ t.res = s.res ∧
    t.ready = s.ready ∧ t.cbEn = s.cbEn) ∧
  (∀ (s t : State) (b : Bool), s.arb.mode = .rx → exec (.tick b) s = .next t →
    t.enc = s.enc ∧ t.arb = s.arb ∧ t.cbEn = s.cbEn)

/-- R45, R250: `timer_cfg` and `snap` are written by `CFG_RX`, `CFG_TX`, `SEND`, `RESTORE` and the
encoder's completion only, and `snap` by `CFG_TX` and `SEND` only. -/
def Obligations.OnlyArbiterWritesTimer : Prop :=
  ∀ (i : Instr) (s t : State), exec i s = .next t →
    (t.arb.timerCfg ≠ s.arb.timerCfg →
      i = .cfgRx ∨ (∃ p, i = .cfgTx p) ∨ (∃ p a c n, i = .send p a c n) ∨ (∃ v, i = .restore v) ∨
      ((∃ b, i = .tick b) ∧ s.arb.mode = .tx ∧ t.resp = some 0x1000000000000008#64)) ∧
    (t.arb.snap ≠ s.arb.snap → (∃ p, i = .cfgTx p) ∨ (∃ p a c n, i = .send p a c n))

/-- R252: the three states of the arbiter and what moves between them; everything not listed leaves the
state unchanged; mode RX with a send in progress does not occur; the refusals of each state. -/
def Obligations.ArbiterStateTable : Prop :=
  ∀ (i : Instr) (s : State), s.Good → ∃ t, exec i s = .next t ∧
    s.arbState ≠ (.rx, true) ∧
    (s.arbState = (.rx, false) → t.arbState =
      match i with
      | .send p _ _ _ => if s.cfg.table.any (fun d => d.id == p) then (.tx, true) else (.rx, false)
      | .cfgTx p => if s.cfg.table.any (fun d => d.id == p) then (.tx, false) else (.rx, false)
      | _ => (.rx, false)) ∧
    (s.arbState = (.tx, true) →
      (t.arbState = if t.resp = some 0x1000000000000008#64 then (.rx, false) else (.tx, true)) ∧
      ((∃ p a c n, i = .send p a c n) ∨ (∃ p, i = .cfgTx p) ∨ i = .cfgRx ∨ (∃ v, i = .restore v) →
        t = { s with resp := some 0x2000000000000000#64 })) ∧
    (s.arbState = (.tx, false) →
      (t.arbState = match i with
        | .cfgRx => (.rx, false)
        | .restore _ => (.rx, false)
        | _ => (.tx, false)) ∧
      ((∃ p a c n, i = .send p a c n) ∨ (∃ p, i = .cfgTx p) →
        t = { s with resp := some 0x3000000000000000#64 }))

/-- R91, R300: every operation answers a status that R91 lists, never 0x5 to 0xE; one that is refused has
payload 0 and changes nothing. -/
def Obligations.RefusalsChangeNothing : Prop :=
  ∀ (i : Instr) (s t : State), exec i s = .next t →
    ∃ r, t.resp = some r ∧ statusOf r ∈ [0x0#4, 0x1#4, 0x2#4, 0x3#4, 0x4#4] ∧
      (statusOf r ∈ [0x2#4, 0x3#4, 0x4#4] →
        r.extractLsb' 0 60 = 0#60 ∧ t = { s with resp := some r })

/-! ## The encoder (44_encoder.md) -/

/-- R200, R201, R302: a `SEND` in mode RX for a protocol of the table starts a send and switches the
arbiter; else it is refused, busy before mode before protocol, and changes nothing. -/
def Obligations.SendAcceptsOrRefuses : Prop :=
  (∀ (s : State) (p : BitVec 8) (a : BitVec 16) (c : BitVec 32) (n : BitVec 4) (i : Nat),
    s.cfg.WF → s.arb.mode = .rx → i < s.cfg.nproto → (s.cfg.desc i).id = p →
    exec (.send p a c n) s = .next { s with
      dec := .cleared,
      arb := { mode := .tx, timerCfg := Config.tcfgOf (s.cfg.desc i).txRate, snap := s.arb.timerCfg },
      enc := { active := true, desc := BitVec.ofNat 8 i, frame := (s.cfg.desc i).assemble a c,
               repLeft := n, rptFrame := false, phase := .start, bitIdx := 0#5, dur := 1#16,
               sub := 1#8, level := false, pinOn := false },
      resp := some 0#64 }) ∧
  (∀ (s : State) (p : BitVec 8) (a : BitVec 16) (c : BitVec 32) (n : BitVec 4),
    s.arb.mode = .rx → ¬ s.Knows p →
    exec (.send p a c n) s = .next { s with resp := some 0x4000000000000000#64 }) ∧
  (∀ (s : State) (p : BitVec 8) (a : BitVec 16) (c : BitVec 32) (n : BitVec 4),
    s.arb.mode = .tx →
    exec (.send p a c n) s = .next { s with
      resp := some (if s.enc.active then 0x2000000000000000#64 else 0x3000000000000000#64) })

/-- R181, R204: `extract` undoes `assemble` on the bits of the two fields, bits above the field widths are
ignored, and every frame of `nbits` bits is the assembly of what is extracted from it. -/
def Obligations.AssembleExtractInverse : Prop :=
  ∀ d : Desc, d.W3 →
    (∀ (a : BitVec 16) (c : BitVec 32),
      (d.extract (d.assemble a c)).1.toNat = a.toNat % 2 ^ d.addrBits.toNat ∧
      (d.extract (d.assemble a c)).2.toNat = c.toNat % 2 ^ d.cmdBits.toNat) ∧
    (∀ x : BitVec 32, x.toNat < 2 ^ d.nbits →
      d.assemble (d.extract x).1 (d.extract x).2 = x)

/-- R204, R205: the frame's bits, the first sent at the top: the address field, then the command field,
each most significant bit first, or least significant first with `LSB_FIRST`; zeros above; and each wire
bit is its frame bit XOR `INVERTED`. -/
def Obligations.FrameBitOrder : Prop :=
  ∀ (d : Desc) (a : BitVec 16) (c : BitVec 32), d.W3 →
    (∀ k < d.addrBits.toNat, (d.assemble a c).getLsbD (d.nbits - 1 - k) =
      if d.lsbFirst then a.getLsbD k else a.getLsbD (d.addrBits.toNat - 1 - k)) ∧
    (∀ k < d.cmdBits.toNat, (d.assemble a c).getLsbD (d.cmdBits.toNat - 1 - k) =
      if d.lsbFirst then c.getLsbD k else c.getLsbD (d.cmdBits.toNat - 1 - k)) ∧
    (∀ k, d.nbits ≤ k → (d.assemble a c).getLsbD k = false) ∧
    (∀ (x : BitVec 32) (k : Nat), k < d.nbits →
      d.wire x k = (x.getLsbD (d.nbits - 1 - k) ^^ d.flags.getLsbD 2))

/-- R206, R222: an encoder tick without a send holds the pin inactive; in a send it counts `enc_sub` down,
and in a logical tick reloads it with `n_sub` and counts `enc_dur` down; the sample does not matter. -/
def Obligations.EncoderTickCounts : Prop :=
  (∀ (s : State) (b : Bool), s.arb.mode = .tx → s.enc.active = false →
    exec (.tick b) s = .next { s with
      enc := { s.enc with pinOn := false }, resp := some 0x1000000000000000#64 }) ∧
  (∀ (s : State) (b : Bool), s.Good → s.enc.active = true → 1 < s.enc.sub.toNat →
    exec (.tick b) s = .next (s.txNone { s.enc with sub := s.enc.sub - 1#8 })) ∧
  (∀ (s : State) (b : Bool), s.Good → s.enc.active = true → s.enc.sub = 1#8 →
    1 < s.enc.dur.toNat →
    exec (.tick b) s = .next (s.txNone
      { s.enc with sub := s.encDesc.nSub, dur := s.enc.dur - 1#16 }))

/-- R208, R209, R210, R215, R216: the header mark, the header space, what follows it in a repeat code, the
gap after the stop mark, and the next frame after a gap with repetitions left. -/
def Obligations.FrameSegmentsInOrder : Prop :=
  ∀ (s : State) (b : Bool), s.Good → s.SegmentEnds →
    (s.enc.phase = .start → exec (.tick b) s = .next (s.newSegment { s.enc with
      phase := .hdrMark, level := true,
      dur := if s.enc.rptFrame then s.encDesc.rptPulse.exp else s.encDesc.hdrPulse.exp })) ∧
    (s.enc.phase = .hdrMark → exec (.tick b) s = .next (s.newSegment { s.enc with
      phase := .hdrSpace, level := false,
      dur := if s.enc.rptFrame then s.encDesc.rptPause.exp else s.encDesc.hdrPause.exp })) ∧
    (s.enc.phase = .hdrSpace → s.enc.rptFrame = true →
      exec (.tick b) s = .next (s.newSegment { s.enc with
        phase := .stopMark, level := true, dur := s.encDesc.p0Pulse.exp })) ∧
    (s.enc.phase = .stopMark → exec (.tick b) s = .next (s.newSegment { s.enc with
      phase := .gap, level := false, dur := s.encDesc.gap })) ∧
    (s.enc.phase = .gap → s.enc.repLeft ≠ 0#4 → exec (.tick b) s = .next (s.newSegment { s.enc with
      repLeft := s.enc.repLeft - 1#4, rptFrame := s.encDesc.hasRpt, phase := .hdrMark, level := true,
      dur := if s.encDesc.hasRpt then s.encDesc.rptPulse.exp else s.encDesc.hdrPulse.exp }))

/-- R210, R211, R213, R214: the two segments of each data bit, the wire value choosing the pair of
timings, or the order of the halves for Manchester; after the last bit the stop mark or the gap. -/
def Obligations.DataBitSegments : Prop :=
  ∀ (s : State) (b : Bool), s.Good → s.SegmentEnds →
    (s.enc.phase = .hdrSpace → s.enc.rptFrame = false →
      exec (.tick b) s = .next (s.newSegment { s.enc with
        phase := .bitA, bitIdx := 0#5,
        level := !s.encDesc.isManchester || s.encDesc.wire s.enc.frame 0,
        dur := if s.encDesc.isManchester || s.encDesc.wire s.enc.frame 0 then s.encDesc.p1Pulse.exp
               else s.encDesc.p0Pulse.exp })) ∧
    (s.enc.phase = .bitA →
      exec (.tick b) s = .next (s.newSegment { s.enc with
        phase := .bitB,
        level := s.encDesc.isManchester && !s.encDesc.wire s.enc.frame s.enc.bitIdx.toNat,
        dur := if s.encDesc.isManchester then s.encDesc.p1Pulse.exp
               else if s.encDesc.wire s.enc.frame s.enc.bitIdx.toNat then s.encDesc.p1Pause.exp
               else s.encDesc.p0Pause.exp })) ∧
    (s.enc.phase = .bitB → s.enc.bitIdx.toNat + 1 < s.encDesc.nbits →
      exec (.tick b) s = .next (s.newSegment { s.enc with
        phase := .bitA, bitIdx := s.enc.bitIdx + 1#5,
        level := !s.encDesc.isManchester || s.encDesc.wire s.enc.frame (s.enc.bitIdx.toNat + 1),
        dur := if s.encDesc.isManchester || s.encDesc.wire s.enc.frame (s.enc.bitIdx.toNat + 1) then
                 s.encDesc.p1Pulse.exp
               else s.encDesc.p0Pulse.exp })) ∧
    (s.enc.phase = .bitB → ¬ s.enc.bitIdx.toNat + 1 < s.encDesc.nbits →
      exec (.tick b) s = .next (s.newSegment
        (if s.encDesc.hasStop then
          { s.enc with phase := .stopMark, level := true, dur := s.encDesc.p0Pulse.exp }
         else { s.enc with phase := .gap, level := false, dur := s.encDesc.gap })))

/-- R217: the gap of the last frame ends: the encoder goes idle, the timer gets the snapshot back, mode
RX, and the response has `send_done`. -/
def Obligations.LastGapFinishesSend : Prop :=
  ∀ (s : State) (b : Bool), s.Good → s.SegmentEnds → s.enc.phase = .gap → s.enc.repLeft = 0#4 →
    exec (.tick b) s = .next { s with
      enc := { s.enc with active := false, level := false, phase := .start, dur := 0#16, sub := 0#8,
                          pinOn := false },
      arb := { mode := .rx, timerCfg := s.arb.snap, snap := s.arb.snap },
      resp := some 0x1000000000000008#64 }

/-- R226: what the pin does in an encoder tick: inactive in a space or without a send, active in a mark,
except that with `CARRIER = TOGGLE` it alternates within the mark, starting active. -/
def Obligations.PinDriveRule : Prop :=
  ∀ (s : State) (b : Bool), s.Good → s.arb.mode = .tx → ∃ t, exec (.tick b) s = .next t ∧
    t.enc.pinOn =
      (if t.enc.active = true ∧ t.enc.level = true then
        (match s.cfg.carrier with
         | .toggle => if s.enc.level then !s.enc.pinOn else true
         | .level => true)
       else false) ∧
    t.pin = (if t.enc.pinOn then s.cfg.activeOut else !s.cfg.activeOut)

/-- R46: the pin shows `pin_on` at the polarity `ACTIVE_OUT`, and no operation but a `TICK` dispatched to
the encoder changes it. (The reset input does, R332; it is no operation.) -/
def Obligations.PinChangesOnlyInEncoderTick : Prop :=
  (∀ s : State, s.pin = if s.enc.pinOn = true then s.cfg.activeOut else !s.cfg.activeOut) ∧
  (∀ (i : Instr) (s t : State), s.Inv → exec i s = .next t → t.pin ≠ s.pin →
    (∃ b, i = .tick b) ∧ s.arb.mode = .tx)

/-- R219, R203: an accepted `SEND` is followed by exactly the segments of its frame and its repetitions:
after `k` ticks the envelope is that of logical tick `(k - 1) / n_sub`, each tick answers NONE and leaves
decoder, results and timer alone; tick `T_send` ends the last gap, answers `send_done`, and puts mode and
`timer_cfg` back. -/
def Obligations.SendPlaysItsSegments : Prop :=
  ∀ (s : State) (p : BitVec 8) (a : BitVec 16) (c : BitVec 32) (n : BitVec 4) (i : Nat),
    s.Good → s.arb.mode = .rx → i < s.cfg.nproto → (s.cfg.desc i).id = p →
    let d := s.cfg.desc i
    let frame := d.assemble a c
    let T := sendTicks d frame n.toNat
    ∃ s₁, exec (.send p a c n) s = .next s₁ ∧ s₁.resp = some 0#64 ∧
      (∀ bs : List Bool, 1 ≤ bs.length → bs.length < T →
        ∃ e, execAll (bs.map .tick) s₁ =
            .next { s₁ with enc := e, resp := some 0x1000000000000000#64 } ∧
          e.active = true ∧
          (envelope (sendSegs d frame n.toNat))[(bs.length - 1) / d.nSub.toNat]? = some e.level) ∧
      (∀ bs : List Bool, bs.length = T →
        ∃ e, execAll (bs.map .tick) s₁ = .next { s with
            dec := .cleared, enc := e, resp := some 0x1000000000000008#64,
            arb := { mode := .rx, timerCfg := s.arb.timerCfg, snap := s.arb.timerCfg } } ∧
          e.active = false ∧ e.level = false ∧ e.pinOn = false)

/-! ## The decoder: hold, header (40_decoder_common.md) -/

/-- R112: while a result is pending a decoder tick only counts `rep_timer`. -/
def Obligations.HoldOnlyCounts : Prop :=
  ∀ (s : State) (b : Bool), s.arb.mode = .rx → s.ready = true →
    exec (.tick b) s = .next (s.rxNone s.dec)

/-- R111: every decoder tick counts `rep_timer` up to 0xFFFF, in every state and in hold, and the tick
that emits a result sets it to 0; no encoder tick and no other operation changes it. -/
def Obligations.RepeatTimerCounts : Prop :=
  (∀ (s : State) (b : Bool), s.Good → s.arb.mode = .rx → ∃ t r, exec (.tick b) s = .next t ∧
    t.resp = some r ∧
    t.rep.timer.toNat =
      if statusOf r = 0x0#4 then 0 else min (s.rep.timer.toNat + 1) 0xFFFF) ∧
  (∀ (i : Instr) (s t : State), exec i s = .next t →
    s.arb.mode = .tx ∨ (∀ b, i ≠ .tick b) → t.rep = s.rep)

/-- R115: in IDLE a mark sample counts the leading mark; a saturated count fits no window of a
well-formed table. -/
def Obligations.LeadingMarkCounts : Prop :=
  (∀ s : State, s.Listening → s.dec.startBitDetected = false →
    exec (.tick (s.sample true)) s =
      .next (s.rxNone { s.dec with pulseTime := satInc s.dec.pulseTime })) ∧
  (∀ c : Config, c.WF → ∀ d ∈ c.table, ¬ d.hdrPulse.Has 0xFFFF#16 ∧
    (d.hasRpt = true → ¬ d.rptPulse.Has 0xFFFF#16))

/-- R116, R117: in IDLE a space sample is ignored when no mark was seen, begins the header space when the
mark fits the header mark or the repeat-header mark of some record, and else clears. -/
def Obligations.LeadingMarkEnds : Prop :=
  ∀ s : State, s.Listening → s.dec.startBitDetected = false →
    (s.dec.pulseTime = 0#16 → exec (.tick (s.sample false)) s = .next (s.rxNone s.dec)) ∧
    (s.dec.pulseTime ≠ 0#16 →
      (∃ d ∈ s.cfg.table, d.hdrPulse.Has s.dec.pulseTime ∨
        (d.hasRpt = true ∧ d.rptPulse.Has s.dec.pulseTime)) →
      exec (.tick (s.sample false)) s = .next (s.rxNone
        { s.dec with startBitDetected := true, waitSpace := true, pauseTime := 1#16 })) ∧
    (s.dec.pulseTime ≠ 0#16 →
      (∀ d ∈ s.cfg.table, ¬ d.hdrPulse.Has s.dec.pulseTime ∧
        ¬ (d.hasRpt = true ∧ d.rptPulse.Has s.dec.pulseTime)) →
      exec (.tick (s.sample false)) s = .next (s.rxNone .cleared))

/-- R118, R119: the header space is counted while some record that the mark fits could still match, and
the frame is abandoned in the tick in which the last one drops out. -/
def Obligations.HeaderSpaceCounts : Prop :=
  ∀ s : State, s.Listening → s.decState = .startBitSeen →
    exec (.tick (s.sample false)) s = .next (s.rxNone
      (if s.cfg.table.any (fun d =>
          decide (d.hdrPulse.Has s.dec.pulseTime ∧
            ((satInc s.dec.pauseTime).toNat : Int) ≤
              d.hdrPause.max + (if d.isManchester then d.p1Pulse.max else 0)) ||
          decide (d.hasRpt = true ∧ d.rptPulse.Has s.dec.pulseTime ∧
            ((satInc s.dec.pauseTime).toNat : Int) ≤ d.rptPause.max)) then
        { s.dec with pauseTime := satInc s.dec.pauseTime }
       else .cleared))

/-- R120, R121, R122: the header mark and space select the record with the lowest index that they fit; the
frame registers start for its kind; with no record the frame is abandoned and the mark counted anew. -/
def Obligations.HeaderMatchEnters : Prop :=
  ∀ s : State, s.cfg.WF → s.Listening → s.decState = .startBitSeen →
    (∀ i < s.cfg.nproto,
      (∀ j < i, NoHeader (s.cfg.desc j) s.dec.pulseTime s.dec.pauseTime) →
      (Normal (s.cfg.desc i) s.dec.pulseTime s.dec.pauseTime →
        exec (.tick (s.sample true)) s = .next (s.rxNone
          { bitpos := 0#7, pulseTime := 1#16, pauseTime := 0#16, startBitDetected := true,
            waitSpace := false, candValid := true, candIdx := BitVec.ofNat 8 i, rpt := false,
            manMid := false, data := 0#32 })) ∧
      (Shifted (s.cfg.desc i) s.dec.pulseTime s.dec.pauseTime →
        exec (.tick (s.sample true)) s = .next (s.rxNone
          { bitpos := 1#7, pulseTime := 1#16, pauseTime := 0#16, startBitDetected := true,
            waitSpace := false, candValid := true, candIdx := BitVec.ofNat 8 i, rpt := false,
            manMid := true, data := if (s.cfg.desc i).inv then 1#32 else 0#32 })) ∧
      (Rpt (s.cfg.desc i) s.dec.pulseTime s.dec.pauseTime →
        exec (.tick (s.sample true)) s = .next (s.rxNone
          { bitpos := 0#7, pulseTime := 1#16, pauseTime := 0#16, startBitDetected := true,
            waitSpace := false, candValid := true, candIdx := BitVec.ofNat 8 i, rpt := true,
            manMid := false, data := 0#32 }))) ∧
    ((∀ j < s.cfg.nproto, NoHeader (s.cfg.desc j) s.dec.pulseTime s.dec.pauseTime) →
      exec (.tick (s.sample true)) s = .next (s.rxNone .restarted))

/-! ## The decoder: data bits (41_decoder_bits.md, 42_decoder_manchester.md) -/

/-- R141, R142: the mark of a data bit that is not Manchester is counted up to the longer of the two
marks, and must fit one of them when it ends. -/
def Obligations.DataMarkMeasured : Prop :=
  ∀ s : State, s.Good → s.Listening → s.decState = .receivingBits →
    s.cand.isManchester = false → s.dec.waitSpace = false →
    exec (.tick (s.sample true)) s = .next (s.rxNone
      (if ((satInc s.dec.pulseTime).toNat : Int) ≤ max s.cand.p1Pulse.max s.cand.p0Pulse.max then
        { s.dec with pulseTime := satInc s.dec.pulseTime }
       else .cleared)) ∧
    exec (.tick (s.sample false)) s = .next (s.rxNone
      (if s.cand.p1Pulse.Has s.dec.pulseTime ∨ s.cand.p0Pulse.Has s.dec.pulseTime then
        { s.dec with waitSpace := true, pauseTime := 1#16 }
       else .cleared))

/-- R144, R123: a mark ends the bit's space: the pair of mark and space that fits is the wire value, which
is stored XOR `INVERTED`; no pair, or a mark after the last bit of a frame without stop bit, abandons. -/
def Obligations.DataBitStored : Prop :=
  ∀ s : State, s.Good → s.Listening → s.decState = .receivingBits →
    s.cand.isManchester = false → s.dec.waitSpace = true →
    (∀ w : Bool,
      (if w then s.cand.p1Pulse.Has s.dec.pulseTime ∧ s.cand.p1Pause.Has s.dec.pauseTime
       else s.cand.p0Pulse.Has s.dec.pulseTime ∧ s.cand.p0Pause.Has s.dec.pauseTime) →
      exec (.tick (s.sample true)) s = .next (s.rxNone
        (if s.dec.bitpos.toInt + 1 = (s.cand.nbits : Int) ∧ s.cand.hasStop = false then .restarted
         else { s.dec with data := shiftIn s.cand s.dec.data [w], bitpos := s.dec.bitpos + 1#7,
                           pulseTime := 1#16, pauseTime := 0#16, waitSpace := false }))) ∧
    (¬ (s.cand.p1Pulse.Has s.dec.pulseTime ∧ s.cand.p1Pause.Has s.dec.pauseTime) →
     ¬ (s.cand.p0Pulse.Has s.dec.pulseTime ∧ s.cand.p0Pause.Has s.dec.pauseTime) →
      exec (.tick (s.sample true)) s = .next (s.rxNone .restarted))

/-- R143: the space of a bit is counted while it fits a bit of the measured mark; when it outgrows both,
the last bit of a frame without stop bit is resolved from its mark and the frame completes; else abandon. -/
def Obligations.DataSpaceMeasured : Prop :=
  ∀ s : State, s.Good → s.Listening → s.decState = .receivingBits →
    s.cand.isManchester = false → s.dec.waitSpace = true →
    exec (.tick (s.sample false)) s = .next
      (if (s.cand.p1Pulse.Has s.dec.pulseTime ∧
            ((satInc s.dec.pauseTime).toNat : Int) ≤ s.cand.p1Pause.max) ∨
          (s.cand.p0Pulse.Has s.dec.pulseTime ∧
            ((satInc s.dec.pauseTime).toNat : Int) ≤ s.cand.p0Pause.max) then
        s.rxNone { s.dec with pauseTime := satInc s.dec.pauseTime }
       else if s.dec.bitpos.toInt = (s.cand.nbits : Int) - 1 ∧ s.cand.hasStop = false then
        s.afterFullFrame s.cand
          (shiftIn s.cand s.dec.data [decide (s.cand.p1Pulse.Has s.dec.pulseTime)])
       else s.rxNone .cleared)

/-- R146, R147, R186: the stop mark is counted up to the longest mark of a 0; when it ends within that
window the frame completes: a full frame with its result (R180, R185), a repeat code by repeating the last
result with `REP` when that is of the same protocol and within the repeat window, and else silently. -/
def Obligations.StopMarkCompletes : Prop :=
  ∀ s : State, s.Good → s.Listening → s.decState = .stopBitExpected →
    exec (.tick (s.sample true)) s = .next (s.rxNone
      (if ((satInc s.dec.pulseTime).toNat : Int) ≤ s.cand.p0Pulse.max then
        { s.dec with pulseTime := satInc s.dec.pulseTime }
       else .cleared)) ∧
    (¬ s.cand.p0Pulse.Has s.dec.pulseTime →
      exec (.tick (s.sample false)) s = .next (s.rxNone .cleared)) ∧
    (s.cand.p0Pulse.Has s.dec.pulseTime → s.dec.rpt = false →
      exec (.tick (s.sample false)) s = .next (s.afterFullFrame s.cand s.dec.data)) ∧
    (s.cand.p0Pulse.Has s.dec.pulseTime → s.dec.rpt = true →
      exec (.tick (s.sample false)) s = .next
        (if s.rep.lastValid = true ∧ s.rep.lastProto = s.cand.id ∧
            (satInc s.rep.timer).toNat ≤ s.cand.repWindow.toNat then
          s.afterRepeatCode
         else s.rxNone .cleared))

/-- R162, R163: a Manchester mark from a bit boundary is one half bit, one from mid-bit one or two. -/
def Obligations.ManchesterMarkMeasured : Prop :=
  ∀ s : State, s.Good → s.Listening → s.decState = .receivingBits →
    s.cand.isManchester = true → s.dec.waitSpace = false →
    exec (.tick (s.sample true)) s = .next (s.rxNone
      (if ((satInc s.dec.pulseTime).toNat : Int) ≤
          (if s.dec.manMid then 2 * s.cand.p1Pulse.max else s.cand.p1Pulse.max) then
        { s.dec with pulseTime := satInc s.dec.pulseTime }
       else .cleared)) ∧
    exec (.tick (s.sample false)) s = .next (s.rxNone
      (if Short s.cand s.dec.pulseTime ∨ (s.dec.manMid = true ∧ Long s.cand s.dec.pulseTime) then
        { s.dec with waitSpace := true, pauseTime := 1#16 }
       else .cleared))

/-- R165, R166 without the virtual tick: the bits that a pair of mark and space stores and where in the
bit grid it ends; a pair that is none of the five, or that overflows the frame, abandons. -/
def Obligations.ManchesterPairStores : Prop :=
  ∀ s : State, s.Good → s.Listening → s.decState = .receivingBits →
    s.cand.isManchester = true → s.dec.waitSpace = true →
    (∀ (bits : List Bool) (mid : Bool),
      (s.dec.manMid = false ∧ Short s.cand s.dec.pulseTime ∧ Short s.cand s.dec.pauseTime ∧
          bits = [true] ∧ mid = false) ∨
        (s.dec.manMid = false ∧ Short s.cand s.dec.pulseTime ∧ Long s.cand s.dec.pauseTime ∧
          bits = [true, false] ∧ mid = true) ∨
        (s.dec.manMid = true ∧ Short s.cand s.dec.pulseTime ∧ Short s.cand s.dec.pauseTime ∧
          bits = [false] ∧ mid = true) ∨
        (s.dec.manMid = true ∧ Long s.cand s.dec.pulseTime ∧ Short s.cand s.dec.pauseTime ∧
          bits = [true] ∧ mid = false) ∨
        (s.dec.manMid = true ∧ Long s.cand s.dec.pulseTime ∧ Long s.cand s.dec.pauseTime ∧
          bits = [true, false] ∧ mid = true) →
      exec (.tick (s.sample true)) s = .next (s.rxNone
        (if s.dec.bitpos.toInt + bits.length ≤ (s.cand.nbits : Int) then
          { s.dec with data := shiftIn s.cand s.dec.data bits,
                       bitpos := s.dec.bitpos + BitVec.ofNat 7 bits.length, manMid := mid,
                       pulseTime := 1#16, pauseTime := 0#16, waitSpace := false }
         else .restarted))) ∧
    ((¬ Short s.cand s.dec.pauseTime ∧
        (s.dec.manMid = true → ¬ Long s.cand s.dec.pulseTime ∨ ¬ Long s.cand s.dec.pauseTime) ∧
        (s.dec.manMid = false → ¬ Long s.cand s.dec.pauseTime)) ∨
      (¬ Short s.cand s.dec.pulseTime ∧
        (s.dec.manMid = true → ¬ Long s.cand s.dec.pulseTime)) →
      exec (.tick (s.sample true)) s = .next (s.rxNone .restarted))

/-- R164, R166 with the virtual tick: a Manchester space is counted up to two half bits; the tick that
exceeds them resolves the last bit from its mark and completes the frame when exactly `nbits` bits are
stored, and else abandons. -/
def Obligations.VirtualTickEndsFrame : Prop :=
  ∀ s : State, s.Good → s.Listening → s.decState = .receivingBits →
    s.cand.isManchester = true → s.dec.waitSpace = true →
    exec (.tick (s.sample false)) s = .next
      (if ((satInc s.dec.pauseTime).toNat : Int) ≤ 2 * s.cand.p1Pulse.max then
        s.rxNone { s.dec with pauseTime := satInc s.dec.pauseTime }
       else if s.dec.manMid = true ∧ Short s.cand s.dec.pulseTime ∧
          s.dec.bitpos.toInt = (s.cand.nbits : Int) then
        s.afterFullFrame s.cand s.dec.data
       else if (if s.dec.manMid then Long s.cand s.dec.pulseTime else Short s.cand s.dec.pulseTime) ∧
          s.dec.bitpos.toInt + 1 = (s.cand.nbits : Int) then
        s.afterFullFrame s.cand (shiftIn s.cand s.dec.data [true])
       else s.rxNone .cleared)

/-! ## Results (43_decoder_complete.md) -/

/-- R182, R184, R92, R263: a tick that answers OK is a decoder tick outside hold; the result register
holds the record it answers, `ready` is 1, `rep_timer` 0, the frame registers are clear, flag bits 3:1 are
0, and `data_complete` is `cb_en`. -/
def Obligations.EmittedResult : Prop :=
  ∀ (s t : State) (b : Bool) (r : Word), exec (.tick b) s = .next t → t.resp = some r →
    statusOf r = 0x0#4 →
    s.arb.mode = .rx ∧ s.ready = false ∧ t.ready = true ∧ t.rep.timer = 0#16 ∧ t.dec = .cleared ∧
    t.rep.lastValid = true ∧ t.res.proto = t.rep.lastProto ∧ t.res.addr = t.rep.lastAddr ∧
    t.res.cmd = t.rep.lastCmd ∧ t.res.flags.extractLsb' 1 3 = 0#3 ∧
    r = 0x0#4 ++ t.res.proto ++ t.res.addr ++ t.res.cmd ++
      (0#1 ++ BitVec.ofBool s.cbEn ++ 0#1 ++ t.res.flags.extractLsb' 0 1)

/-- R114, R125: a decoder tick without a result, every abandon among them, reports nothing and touches
only the frame registers and the count of `rep_timer`. -/
def Obligations.SilentTickLeavesNoTrace : Prop :=
  ∀ (s t : State) (b : Bool) (r : Word), s.arb.mode = .rx → exec (.tick b) s = .next t →
    t.resp = some r → statusOf r ≠ 0x0#4 → t = s.rxNone t.dec

/-- R50: the bit position never goes back within a frame: it grows, or the frame registers are cleared
(and a new mark counted). -/
def Obligations.BitPositionMonotone : Prop :=
  ∀ (i : Instr) (s : State), s.Good → ∃ t, exec i s = .next t ∧
    (s.dec.bitpos.toInt ≤ t.dec.bitpos.toInt ∨ t.dec = .cleared ∨ t.dec = .restarted)

/-- R70(d), R112, R202, R248(e): a pending result stays pending and whole until it is taken, whatever else
the host and the tick source do, a whole send included. -/
def Obligations.PendingResultHeld : Prop :=
  ∀ (ops : List Instr) (s : State), s.Good → s.ready = true → .getResult ∉ ops →
    ∃ t, execAll ops s = .next t ∧ t.ready = true ∧ t.res = s.res

/-- R228, the round-trip law: a frame as sent, fed to an idle decoder at the same tick rate, gives exactly
one result, in the tick R228 names, with the protocol, the address and the command that were sent, and
`REP` by R185. Two premises make precise what R228's words leave: idle means no mark counted yet, and the
header space of a frame, lengthened by a half bit or not, does not exceed what the 16-bit counter can hold
(notes/assumptions/13.md). -/
def Obligations.RoundTripLaw : Prop :=
  ∀ (s : State) (i : Nat) (a : BitVec 16) (c : BitVec 32),
    s.cfg.WF → s.Listening → s.dec = .cleared → i < s.cfg.nproto →
    let d := s.cfg.desc i
    let frame := d.assemble a c
    let k := samplesBeforeEmit d frame
    let rep := decide (d.hasRpt = false ∧ s.rep.lastValid = true ∧ s.rep.lastProto = d.id ∧
      s.rep.lastAddr = a ∧ s.rep.lastCmd = c ∧
      min (s.rep.timer.toNat + k + 1) 0xFFFF ≤ d.repWindow.toNat)
    a.toNat < 2 ^ d.addrBits.toNat → c.toNat < 2 ^ d.cmdBits.toNat →
    headerSpace d frame ≤ 0xFFFF →
    (∀ j < i, NoHeader (s.cfg.desc j) d.hdrPulse.exp (BitVec.ofNat 16 (headerSpace d frame))) →
    responses (segs s.cfg.activeIn (frameSegs d frame)) s =
      List.replicate k (some 0x1000000000000000#64) ++
      [some (0x0#4 ++ d.id ++ a ++ c ++
        (0#1 ++ BitVec.ofBool s.cbEn ++ 0#1 ++ BitVec.ofBool rep))] ++
      List.replicate (segsLength (frameSegs d frame) - k - 1) (some 0x1000000000000000#64)

/-- R186, R218, R219: a repeat code as sent, fed to an idle decoder within the repeat window of a result
of its protocol, repeats that result with `REP`, in the first sample of the gap. -/
def Obligations.RepeatCodeRoundTrip : Prop :=
  ∀ (s : State) (i : Nat), s.cfg.WF → s.Listening → s.dec = .cleared → i < s.cfg.nproto →
    let d := s.cfg.desc i
    let k := d.rptPulse.exp.toNat + d.rptPause.exp.toNat + d.p0Pulse.exp.toNat
    d.hasRpt = true → s.rep.lastValid = true → s.rep.lastProto = d.id →
    s.rep.timer.toNat + k + 1 ≤ d.repWindow.toNat →
    (∀ j < i, NoHeader (s.cfg.desc j) d.rptPulse.exp d.rptPause.exp) →
    responses (segs s.cfg.activeIn (repeatSegs d)) s =
      List.replicate k (some 0x1000000000000000#64) ++
      [some (0x0#4 ++ s.rep.lastProto ++ s.rep.lastAddr ++ s.rep.lastCmd ++
        (0#1 ++ BitVec.ofBool s.cbEn ++ 0#1 ++ 1#1))] ++
      List.replicate (d.gap.toNat - 1) (some 0x1000000000000000#64)

/-! ## The whole machine -/

/-- R333, R45: nothing but `timer_cfg`, `snap` and the payload of a `CFG_TX` response depends on the values
of `timer_cfg` and `snap`. -/
def Obligations.TimerValuesDoNotMatter : Prop :=
  ∀ (i : Instr) (s t : State) (x y : BitVec 32), exec i s = .next t →
    ∃ x' y' r r', t.resp = some r ∧
      exec i { s with arb := { s.arb with timerCfg := x, snap := y } } =
        .next { t with arb := { t.arb with timerCfg := x', snap := y' }, resp := some r' } ∧
      statusOf r' = statusOf r ∧ ((∀ p, i ≠ .cfgTx p) → r' = r)

/-- The invariants, those of R51 and the model's own four (notes/assumptions/17.md), hold after reset, with
every configuration (R51, R52). -/
def Obligations.InvAtReset : Prop :=
  (∀ c : Config, (State.resetWith c).Inv) ∧ State.reset.Inv

/-- The invariants I1 to I10 of R51, with four of the model's own that make them inductive
(notes/assumptions/17.md), are kept by every step over a configuration that a build accepts, and no step
changes the configuration. -/
def Obligations.StepKeepsInv : Prop :=
  ∀ s t : State, s.cfg.WF → s.Inv → step s = .next t → t.Inv ∧ t.cfg = s.cfg

/-- R300, R240: in a good state every step goes on, and every tick completes with OK or NONE: it is never
refused. -/
def Obligations.GoodStatesNeverStop : Prop :=
  (∀ s : State, s.Good → Safe s) ∧
  (∀ (s : State) (b : Bool), s.Good → ∃ t r, exec (.tick b) s = .next t ∧ t.resp = some r ∧
    (statusOf r = 0x0#4 ∨ statusOf r = 0x1#4))

/-- R346(a): `sat_inc` counts by 1 below 0xFFFF and stays there; it never wraps. -/
def Obligations.SatIncNeverWraps : Prop :=
  ∀ x : Half, (satInc x).toNat = if x.toNat < 0xFFFF then x.toNat + 1 else 0xFFFF

/-- R47, R251: `out_dir` is out exactly in mode TX. It becomes out in an accepted `SEND` or `CFG_TX`, in in
an accepted `CFG_RX` or `RESTORE` and in the tick that finishes a send, and nothing else changes it; while
it is in, the pin has the inactive level. -/
def Obligations.OutDirFollowsMode : Prop :=
  (∀ s : State, (s.outDir = .out ↔ s.arb.mode = .tx) ∧ (s.outDir = .in_ ↔ s.arb.mode = .rx)) ∧
  (∀ s : State, s.Inv → s.outDir = .in_ → s.enc.pinOn = false ∧ s.pin = !s.cfg.activeOut) ∧
  (∀ (i : Instr) (s : State), s.Good → ∃ t, exec i s = .next t ∧
    t.outDir =
      match i with
      | .send p _ _ _ => if s.outDir = .out ∨ s.Knows p then .out else .in_
      | .cfgTx p => if s.outDir = .out ∨ s.Knows p then .out else .in_
      | .cfgRx => if s.enc.active then .out else .in_
      | .restore _ => if s.enc.active then .out else .in_
      | .tick _ => if t.resp = some 0x1000000000000008#64 then .in_ else s.outDir
      | .getResult => s.outDir
      | .rdStatus => s.outDir
      | .setCb _ => s.outDir
      | .nop => s.outDir)
end

