-- ==== Sys2Proof/Laws/State.lean ====
section
/-! SUPPORT. What each named update of the state leaves in each field: one lemma per field per update,
so that no later proof unfolds an update. -/

namespace Sys2Proof.Machine

/-! ### respond -/

@[simp] theorem respond_cfg (r : Word) (s : State) :
    (respond r s).cfg = s.cfg := rfl
@[simp] theorem respond_dec (r : Word) (s : State) :
    (respond r s).dec = s.dec := rfl
@[simp] theorem respond_rep (r : Word) (s : State) :
    (respond r s).rep = s.rep := rfl
@[simp] theorem respond_res (r : Word) (s : State) :
    (respond r s).res = s.res := rfl
@[simp] theorem respond_ready (r : Word) (s : State) :
    (respond r s).ready = s.ready := rfl
@[simp] theorem respond_cbEn (r : Word) (s : State) :
    (respond r s).cbEn = s.cbEn := rfl
@[simp] theorem respond_enc (r : Word) (s : State) :
    (respond r s).enc = s.enc := rfl
@[simp] theorem respond_arb (r : Word) (s : State) :
    (respond r s).arb = s.arb := rfl
@[simp] theorem respond_tickPending (r : Word) (s : State) :
    (respond r s).tickPending = s.tickPending := rfl
@[simp] theorem respond_input (r : Word) (s : State) :
    (respond r s).input = s.input := rfl
@[simp] theorem respond_resp (r : Word) (s : State) :
    (respond r s).resp = some r := rfl

/-! ### respondOk -/

@[simp] theorem respondOk_cfg (s : State) :
    (respondOk s).cfg = s.cfg := rfl
@[simp] theorem respondOk_dec (s : State) :
    (respondOk s).dec = s.dec := rfl
@[simp] theorem respondOk_rep (s : State) :
    (respondOk s).rep = s.rep := rfl
@[simp] theorem respondOk_res (s : State) :
    (respondOk s).res = s.res := rfl
@[simp] theorem respondOk_ready (s : State) :
    (respondOk s).ready = s.ready := rfl
@[simp] theorem respondOk_cbEn (s : State) :
    (respondOk s).cbEn = s.cbEn := rfl
@[simp] theorem respondOk_enc (s : State) :
    (respondOk s).enc = s.enc := rfl
@[simp] theorem respondOk_arb (s : State) :
    (respondOk s).arb = s.arb := rfl
@[simp] theorem respondOk_tickPending (s : State) :
    (respondOk s).tickPending = s.tickPending := rfl
@[simp] theorem respondOk_input (s : State) :
    (respondOk s).input = s.input := rfl
@[simp] theorem respondOk_resp (s : State) :
    (respondOk s).resp = some (response .ok 0#60) := rfl

/-! ### refuse -/

@[simp] theorem refuse_cfg (st : Status) (s : State) :
    (refuse st s).cfg = s.cfg := rfl
@[simp] theorem refuse_dec (st : Status) (s : State) :
    (refuse st s).dec = s.dec := rfl
@[simp] theorem refuse_rep (st : Status) (s : State) :
    (refuse st s).rep = s.rep := rfl
@[simp] theorem refuse_res (st : Status) (s : State) :
    (refuse st s).res = s.res := rfl
@[simp] theorem refuse_ready (st : Status) (s : State) :
    (refuse st s).ready = s.ready := rfl
@[simp] theorem refuse_cbEn (st : Status) (s : State) :
    (refuse st s).cbEn = s.cbEn := rfl
@[simp] theorem refuse_enc (st : Status) (s : State) :
    (refuse st s).enc = s.enc := rfl
@[simp] theorem refuse_arb (st : Status) (s : State) :
    (refuse st s).arb = s.arb := rfl
@[simp] theorem refuse_tickPending (st : Status) (s : State) :
    (refuse st s).tickPending = s.tickPending := rfl
@[simp] theorem refuse_input (st : Status) (s : State) :
    (refuse st s).input = s.input := rfl
@[simp] theorem refuse_resp (st : Status) (s : State) :
    (refuse st s).resp = some (response st 0#60) := rfl

/-! ### decClear -/

@[simp] theorem decClear_cfg (s : State) :
    (decClear s).cfg = s.cfg := rfl
@[simp] theorem decClear_dec (s : State) :
    (decClear s).dec = .cleared := rfl
@[simp] theorem decClear_rep (s : State) :
    (decClear s).rep = s.rep := rfl
@[simp] theorem decClear_res (s : State) :
    (decClear s).res = s.res := rfl
@[simp] theorem decClear_ready (s : State) :
    (decClear s).ready = s.ready := rfl
@[simp] theorem decClear_cbEn (s : State) :
    (decClear s).cbEn = s.cbEn := rfl
@[simp] theorem decClear_enc (s : State) :
    (decClear s).enc = s.enc := rfl
@[simp] theorem decClear_arb (s : State) :
    (decClear s).arb = s.arb := rfl
@[simp] theorem decClear_tickPending (s : State) :
    (decClear s).tickPending = s.tickPending := rfl
@[simp] theorem decClear_input (s : State) :
    (decClear s).input = s.input := rfl
@[simp] theorem decClear_resp (s : State) :
    (decClear s).resp = s.resp := rfl

/-! ### emit -/

@[simp] theorem emit_cfg (r : DecodedCommand) (s : State) :
    (emit r s).cfg = s.cfg := rfl
@[simp] theorem emit_dec (r : DecodedCommand) (s : State) :
    (emit r s).dec = s.dec := rfl
@[simp] theorem emit_rep (r : DecodedCommand) (s : State) :
    (emit r s).rep = { s.rep with timer := 0#16 } := rfl
@[simp] theorem emit_res (r : DecodedCommand) (s : State) :
    (emit r s).res = r := rfl
@[simp] theorem emit_ready (r : DecodedCommand) (s : State) :
    (emit r s).ready = true := rfl
@[simp] theorem emit_cbEn (r : DecodedCommand) (s : State) :
    (emit r s).cbEn = s.cbEn := rfl
@[simp] theorem emit_enc (r : DecodedCommand) (s : State) :
    (emit r s).enc = s.enc := rfl
@[simp] theorem emit_arb (r : DecodedCommand) (s : State) :
    (emit r s).arb = s.arb := rfl
@[simp] theorem emit_tickPending (r : DecodedCommand) (s : State) :
    (emit r s).tickPending = s.tickPending := rfl
@[simp] theorem emit_input (r : DecodedCommand) (s : State) :
    (emit r s).input = s.input := rfl
@[simp] theorem emit_resp (r : DecodedCommand) (s : State) :
    (emit r s).resp = s.resp := rfl

/-! ### setLast -/

@[simp] theorem setLast_cfg (r : DecodedCommand) (s : State) :
    (setLast r s).cfg = s.cfg := rfl
@[simp] theorem setLast_dec (r : DecodedCommand) (s : State) :
    (setLast r s).dec = s.dec := rfl
@[simp] theorem setLast_rep (r : DecodedCommand) (s : State) :
    (setLast r s).rep = { s.rep with lastValid := true, lastProto := r.proto, lastAddr := r.addr,
                                      lastCmd := r.cmd } := rfl
@[simp] theorem setLast_res (r : DecodedCommand) (s : State) :
    (setLast r s).res = s.res := rfl
@[simp] theorem setLast_ready (r : DecodedCommand) (s : State) :
    (setLast r s).ready = s.ready := rfl
@[simp] theorem setLast_cbEn (r : DecodedCommand) (s : State) :
    (setLast r s).cbEn = s.cbEn := rfl
@[simp] theorem setLast_enc (r : DecodedCommand) (s : State) :
    (setLast r s).enc = s.enc := rfl
@[simp] theorem setLast_arb (r : DecodedCommand) (s : State) :
    (setLast r s).arb = s.arb := rfl
@[simp] theorem setLast_tickPending (r : DecodedCommand) (s : State) :
    (setLast r s).tickPending = s.tickPending := rfl
@[simp] theorem setLast_input (r : DecodedCommand) (s : State) :
    (setLast r s).input = s.input := rfl
@[simp] theorem setLast_resp (r : DecodedCommand) (s : State) :
    (setLast r s).resp = s.resp := rfl

/-! ### switchToTx -/

@[simp] theorem switchToTx_cfg (i : Nat) (s : State) :
    (switchToTx i s).cfg = s.cfg := rfl
@[simp] theorem switchToTx_dec (i : Nat) (s : State) :
    (switchToTx i s).dec = .cleared := rfl
@[simp] theorem switchToTx_rep (i : Nat) (s : State) :
    (switchToTx i s).rep = s.rep := rfl
@[simp] theorem switchToTx_res (i : Nat) (s : State) :
    (switchToTx i s).res = s.res := rfl
@[simp] theorem switchToTx_ready (i : Nat) (s : State) :
    (switchToTx i s).ready = s.ready := rfl
@[simp] theorem switchToTx_cbEn (i : Nat) (s : State) :
    (switchToTx i s).cbEn = s.cbEn := rfl
@[simp] theorem switchToTx_enc (i : Nat) (s : State) :
    (switchToTx i s).enc = s.enc := rfl
@[simp] theorem switchToTx_arb (i : Nat) (s : State) :
    (switchToTx i s).arb = { mode := .tx, timerCfg := Config.tcfgOf (s.cfg.desc i).txRate,
                               snap := s.arb.timerCfg } := rfl
@[simp] theorem switchToTx_tickPending (i : Nat) (s : State) :
    (switchToTx i s).tickPending = s.tickPending := rfl
@[simp] theorem switchToTx_input (i : Nat) (s : State) :
    (switchToTx i s).input = s.input := rfl
@[simp] theorem switchToTx_resp (i : Nat) (s : State) :
    (switchToTx i s).resp = s.resp := rfl

/-! ### switchToRx -/

@[simp] theorem switchToRx_cfg (v : TimerConfig) (s : State) :
    (switchToRx v s).cfg = s.cfg := rfl
@[simp] theorem switchToRx_dec (v : TimerConfig) (s : State) :
    (switchToRx v s).dec = s.dec := rfl
@[simp] theorem switchToRx_rep (v : TimerConfig) (s : State) :
    (switchToRx v s).rep = s.rep := rfl
@[simp] theorem switchToRx_res (v : TimerConfig) (s : State) :
    (switchToRx v s).res = s.res := rfl
@[simp] theorem switchToRx_ready (v : TimerConfig) (s : State) :
    (switchToRx v s).ready = s.ready := rfl
@[simp] theorem switchToRx_cbEn (v : TimerConfig) (s : State) :
    (switchToRx v s).cbEn = s.cbEn := rfl
@[simp] theorem switchToRx_enc (v : TimerConfig) (s : State) :
    (switchToRx v s).enc = s.enc := rfl
@[simp] theorem switchToRx_arb (v : TimerConfig) (s : State) :
    (switchToRx v s).arb = { s.arb with timerCfg := v, mode := .rx } := rfl
@[simp] theorem switchToRx_tickPending (v : TimerConfig) (s : State) :
    (switchToRx v s).tickPending = s.tickPending := rfl
@[simp] theorem switchToRx_input (v : TimerConfig) (s : State) :
    (switchToRx v s).input = s.input := rfl
@[simp] theorem switchToRx_resp (v : TimerConfig) (s : State) :
    (switchToRx v s).resp = s.resp := rfl

/-! ### countRep -/

@[simp] theorem countRep_cfg (s : State) :
    (countRep s).cfg = s.cfg := rfl
@[simp] theorem countRep_dec (s : State) :
    (countRep s).dec = s.dec := rfl
@[simp] theorem countRep_rep (s : State) :
    (countRep s).rep = { s.rep with timer := satInc s.rep.timer } := rfl
@[simp] theorem countRep_res (s : State) :
    (countRep s).res = s.res := rfl
@[simp] theorem countRep_ready (s : State) :
    (countRep s).ready = s.ready := rfl
@[simp] theorem countRep_cbEn (s : State) :
    (countRep s).cbEn = s.cbEn := rfl
@[simp] theorem countRep_enc (s : State) :
    (countRep s).enc = s.enc := rfl
@[simp] theorem countRep_arb (s : State) :
    (countRep s).arb = s.arb := rfl
@[simp] theorem countRep_tickPending (s : State) :
    (countRep s).tickPending = s.tickPending := rfl
@[simp] theorem countRep_input (s : State) :
    (countRep s).input = s.input := rfl
@[simp] theorem countRep_resp (s : State) :
    (countRep s).resp = s.resp := rfl

/-! ### acceptSend -/

@[simp] theorem acceptSend_cfg (i : Nat) (a : BitVec 16) (c : BitVec 32) (n : BitVec 4) (s : State) :
    (acceptSend i a c n s).cfg = s.cfg := rfl
@[simp] theorem acceptSend_dec (i : Nat) (a : BitVec 16) (c : BitVec 32) (n : BitVec 4) (s : State) :
    (acceptSend i a c n s).dec = .cleared := rfl
@[simp] theorem acceptSend_rep (i : Nat) (a : BitVec 16) (c : BitVec 32) (n : BitVec 4) (s : State) :
    (acceptSend i a c n s).rep = s.rep := rfl
@[simp] theorem acceptSend_res (i : Nat) (a : BitVec 16) (c : BitVec 32) (n : BitVec 4) (s : State) :
    (acceptSend i a c n s).res = s.res := rfl
@[simp] theorem acceptSend_ready (i : Nat) (a : BitVec 16) (c : BitVec 32) (n : BitVec 4) (s : State) :
    (acceptSend i a c n s).ready = s.ready := rfl
@[simp] theorem acceptSend_cbEn (i : Nat) (a : BitVec 16) (c : BitVec 32) (n : BitVec 4) (s : State) :
    (acceptSend i a c n s).cbEn = s.cbEn := rfl
@[simp] theorem acceptSend_enc (i : Nat) (a : BitVec 16) (c : BitVec 32) (n : BitVec 4) (s : State) :
    (acceptSend i a c n s).enc = startSend (s.cfg.desc i) i a c n := rfl
@[simp] theorem acceptSend_arb (i : Nat) (a : BitVec 16) (c : BitVec 32) (n : BitVec 4) (s : State) :
    (acceptSend i a c n s).arb = { mode := .tx, timerCfg := Config.tcfgOf (s.cfg.desc i).txRate,
                                       snap := s.arb.timerCfg } := rfl
@[simp] theorem acceptSend_tickPending (i : Nat) (a : BitVec 16) (c : BitVec 32) (n : BitVec 4) (s : State) :
    (acceptSend i a c n s).tickPending = s.tickPending := rfl
@[simp] theorem acceptSend_input (i : Nat) (a : BitVec 16) (c : BitVec 32) (n : BitVec 4) (s : State) :
    (acceptSend i a c n s).input = s.input := rfl
@[simp] theorem acceptSend_resp (i : Nat) (a : BitVec 16) (c : BitVec 32) (n : BitVec 4) (s : State) :
    (acceptSend i a c n s).resp = some (response .ok 0#60) := rfl

/-! ### applyReset -/

@[simp] theorem applyReset_cfg (rest : List Input) (s : State) :
    (applyReset rest s).cfg = s.cfg := rfl
@[simp] theorem applyReset_dec (rest : List Input) (s : State) :
    (applyReset rest s).dec = .cleared := rfl
@[simp] theorem applyReset_rep (rest : List Input) (s : State) :
    (applyReset rest s).rep = .atReset := rfl
@[simp] theorem applyReset_res (rest : List Input) (s : State) :
    (applyReset rest s).res = ⟨0, 0, 0, 0⟩ := rfl
@[simp] theorem applyReset_ready (rest : List Input) (s : State) :
    (applyReset rest s).ready = false := rfl
@[simp] theorem applyReset_cbEn (rest : List Input) (s : State) :
    (applyReset rest s).cbEn = false := rfl
@[simp] theorem applyReset_enc (rest : List Input) (s : State) :
    (applyReset rest s).enc = .atReset := rfl
@[simp] theorem applyReset_arb (rest : List Input) (s : State) :
    (applyReset rest s).arb = { mode := .rx, timerCfg := s.cfg.tcfgReset, snap := s.cfg.tcfgReset } := rfl
@[simp] theorem applyReset_tickPending (rest : List Input) (s : State) :
    (applyReset rest s).tickPending = none := rfl
@[simp] theorem applyReset_input (rest : List Input) (s : State) :
    (applyReset rest s).input = rest := rfl
@[simp] theorem applyReset_resp (rest : List Input) (s : State) :
    (applyReset rest s).resp = none := rfl

/-! ### What a tick gives -/

@[simp] theorem quiet_state (s : State) : (quiet s).state = s := rfl
@[simp] theorem quiet_record (s : State) : (quiet s).record = none := rfl
@[simp] theorem quiet_dataComplete (s : State) : (quiet s).dataComplete = false := rfl
@[simp] theorem quiet_sendDone (s : State) : (quiet s).sendDone = false := rfl
@[simp] theorem abandon_state (s : State) : (abandon s).state = decClear s := rfl
@[simp] theorem abandon_record (s : State) : (abandon s).record = none := rfl
@[simp] theorem abandon_dataComplete (s : State) : (abandon s).dataComplete = false := rfl
@[simp] theorem abandon_sendDone (s : State) : (abandon s).sendDone = false := rfl
@[simp] theorem abandonRestart_state (s : State) : (abandonRestart s).state = { s with dec := { DecRegs.cleared with pulseTime := 1#16 } } := rfl
@[simp] theorem abandonRestart_record (s : State) : (abandonRestart s).record = none := rfl
@[simp] theorem abandonRestart_dataComplete (s : State) : (abandonRestart s).dataComplete = false := rfl
@[simp] theorem abandonRestart_sendDone (s : State) : (abandonRestart s).sendDone = false := rfl
@[simp] theorem finish_cfg (o : TickOut) : o.finish.cfg = o.state.cfg := rfl
@[simp] theorem finish_dec (o : TickOut) : o.finish.dec = o.state.dec := rfl
@[simp] theorem finish_rep (o : TickOut) : o.finish.rep = o.state.rep := rfl
@[simp] theorem finish_res (o : TickOut) : o.finish.res = o.state.res := rfl
@[simp] theorem finish_ready (o : TickOut) : o.finish.ready = o.state.ready := rfl
@[simp] theorem finish_cbEn (o : TickOut) : o.finish.cbEn = o.state.cbEn := rfl
@[simp] theorem finish_enc (o : TickOut) : o.finish.enc = o.state.enc := rfl
@[simp] theorem finish_arb (o : TickOut) : o.finish.arb = o.state.arb := rfl
@[simp] theorem finish_tickPending (o : TickOut) : o.finish.tickPending = o.state.tickPending := rfl
@[simp] theorem finish_input (o : TickOut) : o.finish.input = o.state.input := rfl
@[simp] theorem finish_resp (o : TickOut) : o.finish.resp = some (tickResponse o.record o.dataComplete o.sendDone) := rfl

/-! ### The cleared frame registers -/

@[simp] theorem cleared_bitpos : DecRegs.cleared.bitpos = bitposIdle := rfl
@[simp] theorem cleared_pulseTime : DecRegs.cleared.pulseTime = 0#16 := rfl
@[simp] theorem cleared_pauseTime : DecRegs.cleared.pauseTime = 0#16 := rfl
@[simp] theorem cleared_startBitDetected : DecRegs.cleared.startBitDetected = false := rfl
@[simp] theorem cleared_waitSpace : DecRegs.cleared.waitSpace = false := rfl
@[simp] theorem cleared_candValid : DecRegs.cleared.candValid = false := rfl
@[simp] theorem cleared_candIdx : DecRegs.cleared.candIdx = 0#8 := rfl
@[simp] theorem cleared_rpt : DecRegs.cleared.rpt = false := rfl
@[simp] theorem cleared_manMid : DecRegs.cleared.manMid = false := rfl
@[simp] theorem cleared_data : DecRegs.cleared.data = 0#32 := rfl

/-- `bitpos` reads −1 in the cleared registers (R26, R49). -/
@[simp] theorem bitposIdle_toInt : bitposIdle.toInt = -1 := by decide

end Sys2Proof.Machine
end

