-- ==== Sys2Proof/Laws/Table.lean ====
section
/-! SUPPORT. The descriptor table: reading a record, finding a protocol, and what well-formedness gives. -/

namespace Sys2Proof

/-- The check of a record is W1 to W10 of R97. -/
theorem Desc.wf_iff (d : Desc) :
    d.WF ↔ d.W1 ∧ d.W2 ∧ d.W3 ∧ d.W4 ∧ d.W5 ∧ d.W6 ∧ d.W7 ∧ d.W8 ∧ d.W9 ∧ d.W10 := by
  simp only [Desc.WF, Desc.wf, Bool.and_eq_true, decide_eq_true_eq, and_assoc]

/-- A record inside the table is the list's element. -/
theorem Config.desc_of_lt (c : Config) (i : Nat) (h : i < c.nproto) : c.desc i = c.table[i] := by
  unfold Config.nproto at h
  simp [Config.desc, h]

theorem Config.desc_mem (c : Config) (i : Nat) (h : i < c.nproto) : c.desc i ∈ c.table := by
  rw [c.desc_of_lt i h]
  exact List.getElem_mem h

/-- Every record inside a well-formed configuration's table is well-formed. -/
theorem Config.WF.desc {c : Config} (h : c.WF) {i : Nat} (hi : i < c.nproto) : (c.desc i).WF :=
  h.2.1.1 _ (c.desc_mem i hi)

/-- A table index fits the 8 bits of `cand_idx` and `enc_desc`. -/
theorem Config.WF.index_fits {c : Config} (h : c.WF) {i : Nat} (hi : i < c.nproto) :
    (BitVec.ofNat 8 i).toNat = i := by
  have := h.1.2
  simp only [BitVec.toNat_ofNat]
  omega

/-- What finding a protocol gives: a record of the table with that id. -/
theorem Config.findProto_some {c : Config} {p : BitVec 8} {i : Nat} (h : c.findProto p = some i) :
    i < c.nproto ∧ (c.desc i).id = p := by
  obtain ⟨hlt, hp, -⟩ := List.findIdx?_eq_some_iff_getElem.mp h
  exact ⟨hlt, by rw [c.desc_of_lt i hlt]; simpa using hp⟩

/-- No protocol is found exactly when no record has the id (R201). -/
theorem Config.findProto_none {c : Config} {p : BitVec 8} :
    c.findProto p = none ↔ ∀ d ∈ c.table, d.id ≠ p := by
  simp [Config.findProto, List.findIdx?_eq_none_iff]

/-- The window test of R15 as two inequalities. -/
theorem within_iff (v : Half) (t : Timing) :
    within v t = true ↔ t.min ≤ (v.toNat : Int) ∧ (v.toNat : Int) ≤ t.max := by
  simp [within]

theorem atMost_iff (v : Half) (b : Int) : atMost v b = true ↔ (v.toNat : Int) ≤ b := by
  simp [atMost]

theorem Desc.inS_iff (d : Desc) (v : Half) :
    d.inS v = true ↔ d.p1Pulse.min ≤ (v.toNat : Int) ∧ (v.toNat : Int) ≤ d.p1Pulse.max := by
  simp [Desc.inS]

theorem Desc.inL_iff (d : Desc) (v : Half) :
    d.inL v = true ↔ 2 * d.p1Pulse.min ≤ (v.toNat : Int) ∧ (v.toNat : Int) ≤ 2 * d.p1Pulse.max := by
  simp [Desc.inL]

/-- A saturating counter is never below what it was. -/
theorem le_satInc (c : Half) : c.toNat ≤ (satInc c).toNat := by
  unfold satInc
  split
  · exact le_rfl
  · bv_omega

end Sys2Proof
end

