-- ==== Sys2Proof/Laws/Ops.lean ====
section
/-! SUPPORT. For each shared operation, one lemma that says once everything it can do: storing a bit,
COMPLETE, the decoder tick, the encoder tick, and every operation as `exec` runs it. -/

namespace Sys2Proof.Machine

/-! ## Storing a bit -/

/-- `store_bit` overflows and changes nothing, or stores one bit (R123). -/
theorem storeBit_cases (d : Desc) (w : Bool) (r : DecRegs) :
    ((if r.rpt then (0 : Int) else (d.nbits : Int)) ≤ r.bitpos.toInt ∧ storeBit d w r = (r, false)) ∨
    (r.bitpos.toInt < (if r.rpt then (0 : Int) else (d.nbits : Int)) ∧
      storeBit d w r =
        ({ r with data := (r.data <<< 1) ||| (BitVec.ofBool (w ^^ d.inv)).zeroExtend 32,
                  bitpos := r.bitpos + 1#7 }, true)) := by
  unfold storeBit
  by_cases h : (if r.rpt then (0 : Int) else (d.nbits : Int)) ≤ r.bitpos.toInt
  · exact .inl ⟨h, if_pos h⟩
  · exact .inr ⟨not_le.mp h, if_neg h⟩

/-- Storing a bit writes `data` and `bitpos` only. -/
theorem storeBit_frame (d : Desc) (w : Bool) (r : DecRegs) :
    ∃ b x, (storeBit d w r).1 = { r with bitpos := b, data := x } := by
  rcases storeBit_cases d w r with ⟨-, h⟩ | ⟨-, h⟩ <;> rw [h]
  · exact ⟨_, _, rfl⟩
  · exact ⟨_, _, rfl⟩

/-- A bit stored by a Manchester pair: `store_bit` answered `ok` (R166). -/
theorem storeMid_eq_some {d : Desc} {w : Bool} {r : DecRegs} {x : DecRegs × Bool}
    (h : storeMid d w r = some x) :
    r.bitpos.toInt < (if r.rpt then (0 : Int) else (d.nbits : Int)) ∧
      x = ((storeBit d w r).1, true) := by
  unfold storeMid at h
  rcases storeBit_cases d w r with ⟨-, e⟩ | ⟨hlt, e⟩
  · simp [e] at h
  · refine ⟨hlt, ?_⟩
    rw [e] at h ⊢
    simpa using h.symm

/-! ## COMPLETE -/

/-- COMPLETE clears the frame registers; it drops a repeat code silently, or emits one record with the
strobe `cb_en` (R180, R182, R186). -/
theorem complete_cases (s : State) :
    (s.dec.rpt = true ∧ repeatCodeFits s.cand s.rep = false ∧ complete s = quiet (decClear s)) ∨
    (s.dec.rpt = true ∧ repeatCodeFits s.cand s.rep = true ∧
      complete s = ⟨decClear (emit (repeatRecord s) s), some (repeatRecord s), s.cbEn, false⟩) ∨
    (s.dec.rpt = false ∧
      complete s = ⟨decClear (setLast (fullRecord s.cand s) (emit (fullRecord s.cand s) s)),
        some (fullRecord s.cand s), s.cbEn, false⟩) := by
  unfold complete
  cases hr : s.dec.rpt
  · simp
  · cases hf : repeatCodeFits s.cand s.rep <;> simp [hf]

/-! ## The decoder tick -/

/-- A tick that only changes the frame registers, silently. -/
abbrev OnlyDec (s : State) (o : TickOut) : Prop := ∃ r, o = quiet { s with dec := r }

/-- A tick that completes a frame, after changing the frame registers. -/
abbrev Completes (s : State) (o : TickOut) : Prop := ∃ r, o = complete { s with dec := r }

theorem onlyDec_abandon (s : State) : OnlyDec s (abandon s) := ⟨_, rfl⟩

theorem onlyDec_abandonRestart (s : State) : OnlyDec s (abandonRestart s) := ⟨_, rfl⟩

theorem idleMark_cases (s : State) : OnlyDec s (idleMark s) := ⟨_, rfl⟩

theorem idleSpace_cases (s : State) : OnlyDec s (idleSpace s) := by
  unfold idleSpace
  split
  · exact ⟨s.dec, rfl⟩
  · split
    · exact ⟨_, rfl⟩
    · exact onlyDec_abandon s

theorem hdrSpaceTick_cases (s : State) : OnlyDec s (hdrSpaceTick s) := by
  unfold hdrSpaceTick
  simp only
  split
  · exact ⟨_, rfl⟩
  · exact onlyDec_abandon s

theorem hdrMarkTick_cases (s : State) : OnlyDec s (hdrMarkTick s) := by
  unfold hdrMarkTick
  split
  · exact onlyDec_abandonRestart s
  · simp only
    split
    · exact ⟨_, rfl⟩
    · exact ⟨_, rfl⟩

theorem bitTick_cases (m : Bool) (d : Desc) (s : State) :
    OnlyDec s (bitTick m d s) ∨ Completes s (bitTick m d s) := by
  unfold bitTick
  split
  · split
    · left
      unfold bitSpaceEnd
      split
      · exact onlyDec_abandonRestart s
      · simp only
        split
        · exact onlyDec_abandonRestart s
        · exact ⟨_, rfl⟩
    · unfold bitSpaceOn
      simp only
      split
      · exact .inl ⟨_, rfl⟩
      · split
        · exact .inr ⟨_, rfl⟩
        · exact .inl (onlyDec_abandon s)
  · left
    split
    · unfold bitMarkOn
      simp only
      split
      · exact ⟨_, rfl⟩
      · exact onlyDec_abandon s
    · unfold bitMarkEnd
      split
      · exact ⟨_, rfl⟩
      · exact onlyDec_abandon s

theorem stopTick_cases (m : Bool) (d : Desc) (s : State) :
    OnlyDec s (stopTick m d s) ∨ Completes s (stopTick m d s) := by
  unfold stopTick
  split
  · left
    simp only
    split
    · exact ⟨_, rfl⟩
    · exact onlyDec_abandon s
  · split
    · exact .inr ⟨s.dec, rfl⟩
    · exact .inl (onlyDec_abandon s)

theorem manTick_cases (m : Bool) (d : Desc) (s : State) :
    OnlyDec s (manTick m d s) ∨ Completes s (manTick m d s) := by
  unfold manTick
  split
  · split
    · left
      unfold manPair
      split
      · exact onlyDec_abandonRestart s
      · split
        · exact onlyDec_abandonRestart s
        · exact ⟨_, rfl⟩
    · unfold manSpaceOn
      simp only
      split
      · exact .inl ⟨_, rfl⟩
      · unfold manPairVirtual
        split
        · exact .inl ⟨_, rfl⟩
        · split
          · exact .inr ⟨_, rfl⟩
          · exact .inl ⟨_, rfl⟩
  · left
    split
    · unfold manMarkOn
      by_cases h : atMost (satInc s.dec.pulseTime)
          (if s.dec.manMid then 2 * d.p1Pulse.max else d.p1Pulse.max) = true
      · exact ⟨_, if_pos h⟩
      · exact ⟨_, if_neg h⟩
    · unfold manMarkEnd
      split
      · exact ⟨_, rfl⟩
      · exact onlyDec_abandon s

/-- A decoder tick outside hold changes the frame registers silently, or completes a frame. -/
theorem decSample_cases (m : Bool) (s : State) :
    OnlyDec s (decSample m s) ∨ Completes s (decSample m s) := by
  unfold decSample
  split
  · left
    split
    · exact idleMark_cases s
    · exact idleSpace_cases s
  · left
    split
    · exact hdrMarkTick_cases s
    · exact hdrSpaceTick_cases s
  · split
    · exact manTick_cases m _ s
    · exact bitTick_cases m _ s
  · split
    · exact manTick_cases m _ s
    · exact stopTick_cases m _ s

/-- A decoder tick holds, or changes the frame registers silently, or completes a frame; `rep_timer`
counts first in each (R110 to R112). -/
theorem decTick_cases (b : Bool) (s : State) :
    (s.ready = true ∧ decTick b s = quiet (countRep s)) ∨
    (s.ready = false ∧ decTick b s = decSample (b == s.cfg.activeIn) (countRep s) ∧
      (OnlyDec (countRep s) (decTick b s) ∨ Completes (countRep s) (decTick b s))) := by
  unfold decTick
  cases h : s.ready
  · right
    simpa [h] using decSample_cases (b == s.cfg.activeIn) (countRep s)
  · left
    simp [h]

/-- What completing a frame leaves alone. -/
theorem complete_frame (s : State) :
    (complete s).state.cfg = s.cfg ∧ (complete s).state.enc = s.enc ∧
    (complete s).state.arb = s.arb ∧ (complete s).state.cbEn = s.cbEn ∧
    (complete s).state.input = s.input ∧ (complete s).state.tickPending = s.tickPending ∧
    (complete s).sendDone = false := by
  rcases complete_cases s with ⟨-, -, h⟩ | ⟨-, -, h⟩ | ⟨-, h⟩ <;> rw [h] <;> simp

/-- A decoder tick writes decoder and result registers only (R240, R250). -/
theorem decTick_frame (b : Bool) (s : State) :
    (decTick b s).state.cfg = s.cfg ∧ (decTick b s).state.enc = s.enc ∧
    (decTick b s).state.arb = s.arb ∧ (decTick b s).state.cbEn = s.cbEn ∧
    (decTick b s).state.input = s.input ∧ (decTick b s).state.tickPending = s.tickPending ∧
    (decTick b s).sendDone = false := by
  rcases decTick_cases b s with ⟨-, h⟩ | ⟨-, -, ⟨r, h⟩ | ⟨r, h⟩⟩
  · rw [h]; simp
  · rw [h]; simp
  · rw [h]; simpa using complete_frame { countRep s with dec := r }

/-! ## The encoder tick -/

/-- An encoder tick with no send in progress, in a send that goes on, or at the end of a send (R206,
R217). -/
theorem encTick_cases (s : State) :
    (s.enc.active = false ∧ encTick s = quiet { s with enc := { s.enc with pinOn := false } }) ∨
    (∃ r, s.enc.active = true ∧ r = encCount (s.cfg.desc s.enc.desc.toNat) s.enc ∧ r.2 = false ∧
      encTick s = quiet { s with enc := drivePin s.cfg.carrier s.enc.level r.1 }) ∨
    (∃ r, s.enc.active = true ∧ r = encCount (s.cfg.desc s.enc.desc.toNat) s.enc ∧ r.2 = true ∧
      encTick s = ⟨switchToRx s.arb.snap
        { s with enc := drivePin s.cfg.carrier s.enc.level r.1 }, none, false, true⟩) := by
  unfold encTick
  cases ha : s.enc.active
  · simp
  · right
    cases hf : (encCount (s.cfg.desc s.enc.desc.toNat) s.enc).2
    · left
      exact ⟨_, rfl, rfl, hf, by simp [hf]⟩
    · right
      exact ⟨_, rfl, rfl, hf, by simp [hf]⟩

/-- Driving the pin writes `pin_on` only (R226). -/
theorem drivePin_frame (k : Carrier) (prev : Bool) (e : EncRegs) :
    ∃ p, drivePin k prev e = { e with pinOn := p } := by
  unfold drivePin
  split
  · cases k <;> exact ⟨_, rfl⟩
  · exact ⟨_, rfl⟩

/-- An encoder tick writes encoder and arbiter registers only, and returns no record (R206). -/
theorem encTick_frame (s : State) :
    (encTick s).state.cfg = s.cfg ∧ (encTick s).state.dec = s.dec ∧ (encTick s).state.rep = s.rep ∧
    (encTick s).state.res = s.res ∧ (encTick s).state.ready = s.ready ∧
    (encTick s).state.cbEn = s.cbEn ∧ (encTick s).state.input = s.input ∧
    (encTick s).state.tickPending = s.tickPending ∧ (encTick s).record = none ∧
    (encTick s).dataComplete = false := by
  rcases encTick_cases s with ⟨-, h⟩ | ⟨r, -, -, -, h⟩ | ⟨r, -, -, -, h⟩ <;> rw [h] <;> simp

/-! ## Every operation -/

/-- What a `TICK` that gives a next state does (R240). -/
theorem execTick_next {b : Bool} {s t : State} (h : execTick b s = .next t) :
    tickFault s = none ∧ t = (tickOut b s).finish := by
  unfold execTick at h
  split at h
  · cases h
  · exact ⟨‹_›, by cases h; rfl⟩

/-- No operation touches the configuration or the inputs, and each answers (R20, R91). -/
theorem exec_frame {i : Instr} {s t : State} (h : exec i s = .next t) :
    t.cfg = s.cfg ∧ t.input = s.input ∧ t.tickPending = s.tickPending ∧ ∃ r, t.resp = some r := by
  cases i with
  | tick b =>
    obtain ⟨-, rfl⟩ := execTick_next h
    unfold tickOut
    split
    · have := encTick_frame s
      simp [this]
    · have := decTick_frame b s
      simp [this]
  | nop => cases h; simp
  | getResult =>
    cases h
    split <;> simp
  | rdStatus => cases h; simp
  | setCb e => cases h; simp
  | send p a c n =>
    cases h
    split
    · simp
    · split <;> simp
  | cfgRx =>
    cases h
    split <;> simp
  | cfgTx p =>
    cases h
    split
    · simp
    · split <;> simp
  | restore v =>
    cases h
    split <;> simp

/-- Every operation but `TICK` gives a next state in every state (R91). -/
theorem exec_completes {i : Instr} {s : State} (h : ∀ b, i ≠ .tick b) : ∃ t, exec i s = .next t := by
  cases i with
  | tick b => exact absurd rfl (h b)
  | nop => exact ⟨_, rfl⟩
  | getResult => exact ⟨_, rfl⟩
  | rdStatus => exact ⟨_, rfl⟩
  | setCb e => exact ⟨_, rfl⟩
  | send p a c n => exact ⟨_, rfl⟩
  | cfgRx => exact ⟨_, rfl⟩
  | cfgTx p => exact ⟨_, rfl⟩
  | restore v => exact ⟨_, rfl⟩

end Sys2Proof.Machine
end

