-- ==== Sys2Proof/Laws/PerInstr.lean ====
section
/-! SUPPORT. What is said of every operation as syntax, one lemma per constructor: its encoded word is
covered by the opcode table's row of its mnemonic (30_encoding.md R99). -/

namespace Sys2Proof.Laws.EncodeCovered
open Sys2Proof

/-- The row of the operation's mnemonic covers its word. -/
def Statement (i : Instr) : Prop :=
  ∃ r ∈ opcodeTable, r.mnemonic = i.mnemonic ∧ r.covers (encode i) = true

theorem nop : Statement .nop := ⟨opcodeTable[0], by decide, by decide, by decide⟩

theorem tick (b : Bool) : Statement (.tick b) :=
  ⟨opcodeTable[1], by decide, rfl, by cases b <;> decide⟩

theorem send (p : BitVec 8) (a : BitVec 16) (c : BitVec 32) (n : BitVec 4) :
    Statement (.send p a c n) := by
  refine ⟨opcodeTable[2], by decide, rfl, beq_iff_eq.mpr ?_⟩
  have hm : opcodeTable[2].mask = 0xF#4 ++ 0#8 ++ 0#16 ++ 0#32 ++ 0#4 := by decide
  rw [hm]
  show ((0x2#4 ++ p ++ a ++ c ++ n) &&& (0xF#4 ++ 0#8 ++ 0#16 ++ 0#32 ++ 0#4) :
    BitVec (4 + 8 + 16 + 32 + 4)) = _
  simp only [BitVec.and_append, BitVec.and_zero]
  rfl

theorem getResult : Statement .getResult := ⟨opcodeTable[3], by decide, by decide, by decide⟩

theorem rdStatus : Statement .rdStatus := ⟨opcodeTable[4], by decide, by decide, by decide⟩

theorem setCb (e : Bool) : Statement (.setCb e) :=
  ⟨opcodeTable[5], by decide, rfl, by cases e <;> decide⟩

theorem cfgRx : Statement .cfgRx := ⟨opcodeTable[6], by decide, by decide, by decide⟩

theorem cfgTx (p : BitVec 8) : Statement (.cfgTx p) := by
  refine ⟨opcodeTable[7], by decide, rfl, beq_iff_eq.mpr ?_⟩
  have hm : opcodeTable[7].mask = 0xF#4 ++ 0#8 ++ BitVec.allOnes 52 := by decide
  rw [hm]
  show ((0x7#4 ++ p ++ 0#52) &&& (0xF#4 ++ 0#8 ++ BitVec.allOnes 52) : BitVec (4 + 8 + 52)) = _
  simp only [BitVec.and_append, BitVec.and_zero]
  rfl

theorem restore (v : BitVec 32) : Statement (.restore v) := by
  refine ⟨opcodeTable[8], by decide, rfl, beq_iff_eq.mpr ?_⟩
  have hm : opcodeTable[8].mask = 0xF#4 ++ BitVec.allOnes 28 ++ 0#32 := by decide
  rw [hm]
  show ((0x8#4 ++ 0#28 ++ v) &&& (0xF#4 ++ BitVec.allOnes 28 ++ 0#32) : BitVec (4 + 28 + 32)) = _
  simp only [BitVec.and_append, BitVec.and_zero]
  rfl

end Sys2Proof.Laws.EncodeCovered
end

