-- ==== Sys2Proof/Tests/Slice0.lean ====
section
/-! SUPPORT. Tests of this row: words written out from the encodings, the checks of WellFormed refusing
ill-formed terms, single steps with the results that spec/ gives, and for each statement with hypotheses a
state and operands that meet them. -/

namespace Sys2Proof.Tests
open Sys2Proof Sys2Proof.Machine

/-! ## The table of 95_test_vectors.md section 2, and a table with short frames -/

def tm (e t : Nat) : Timing := ⟨BitVec.ofNat 16 e, BitVec.ofNat 16 t⟩

/-- Descriptor 1 of 95_test_vectors.md section 2: pulse distance, stop bit, repeat code. -/
def tpd : Desc :=
  { id := 1, flags := 0x22, addrBits := 4, cmdBits := 4, nSub := 4, rsvd := 0,
    hdrPulse := tm 16 2, hdrPause := tm 8 2, p1Pulse := tm 2 1, p1Pause := tm 6 1,
    p0Pulse := tm 2 1, p0Pause := tm 2 1, rptPulse := tm 16 2, rptPause := tm 4 1,
    gap := 40, repWindow := 300, txRate := 7600 }
/-- Descriptor 2: pulse length, no stop bit, least significant bit first. -/
def tpl : Desc :=
  { id := 2, flags := 0x18, addrBits := 3, cmdBits := 5, nSub := 2, rsvd := 0,
    hdrPulse := tm 10 1, hdrPause := tm 3 1, p1Pulse := tm 6 1, p1Pause := tm 3 1,
    p0Pulse := tm 3 1, p0Pause := tm 3 1, rptPulse := tm 1 0, rptPause := tm 1 0,
    gap := 30, repWindow := 200, txRate := 3800 }
/-- Descriptor 3: Manchester. -/
def tman : Desc :=
  { id := 3, flags := 0x01, addrBits := 2, cmdBits := 4, nSub := 4, rsvd := 0,
    hdrPulse := tm 12 1, hdrPause := tm 4 1, p1Pulse := tm 4 1, p1Pause := tm 4 1,
    p0Pulse := tm 4 1, p0Pause := tm 4 1, rptPulse := tm 1 0, rptPause := tm 1 0,
    gap := 30, repWindow := 200, txRate := 7600 }
/-- Descriptor 4: Manchester, inverted, least significant bit first. -/
def tmani : Desc :=
  { id := 4, flags := 0x15, addrBits := 3, cmdBits := 3, nSub := 1, rsvd := 0,
    hdrPulse := tm 20 1, hdrPause := tm 5 1, p1Pulse := tm 3 0, p1Pause := tm 3 0,
    p0Pulse := tm 3 0, p0Pause := tm 3 0, rptPulse := tm 1 0, rptPause := tm 1 0,
    gap := 20, repWindow := 150, txRate := 1900 }

def cfg : Config :=
  { table := [tpd, tpl, tman, tmani], fRxCode := 1900, activeIn := true, activeOut := true,
    carrier := .toggle, tcfgReset := 0xDEADBEEF }

/-- One data bit, every duration 1 or 2: a send of seven ticks. -/
def tiny : Desc :=
  { id := 5, flags := 0x22, addrBits := 0, cmdBits := 1, nSub := 1, rsvd := 0,
    hdrPulse := tm 1 0, hdrPause := tm 1 0, p1Pulse := tm 1 0, p1Pause := tm 1 0,
    p0Pulse := tm 1 0, p0Pause := tm 2 0, rptPulse := tm 2 0, rptPause := tm 1 0,
    gap := 1, repWindow := 100, txRate := 7 }

def tinyCfg : Config := { cfg with table := [tiny] }

/-! ## Small states -/

def st : State := State.resetWith cfg
/-- Mode RX with the frame registers `r`. -/
def rx (r : DecRegs) : State := { st with dec := r }
/-- The header mark `p` seen, the header space at `q`. -/
def seen (p q : Half) : DecRegs :=
  { DecRegs.cleared with pulseTime := p, pauseTime := q, startBitDetected := true, waitSpace := true }
/-- Receiving with candidate `i`: mark `p`, space `q`; `ws` for `wait_space`, `mid` for `man_mid`. -/
def recv (i : BitVec 8) (bp : BitVec 7) (p q : Half) (ws mid : Bool) : DecRegs :=
  { DecRegs.cleared with bitpos := bp, pulseTime := p, pauseTime := q, startBitDetected := true,
                         waitSpace := ws, candValid := true, candIdx := i, manMid := mid,
                         data := 0xA5 }
/-- Mode TX with the encoder registers `e`. -/
def tx (e : EncRegs) : State := { st with arb := { st.arb with mode := .tx }, enc := e }
/-- A send of record `i` in a phase. -/
def sending (i : BitVec 8) (ph : Phase) (idx : BitVec 5) (dur : Half) (sub : BitVec 8) : EncRegs :=
  { EncRegs.atReset with active := true, desc := i, frame := 0xA5, phase := ph, bitIdx := idx,
                         dur := dur, sub := sub }
/-- A result pending. -/
def pending : State := { st with res := ⟨1, 0xA, 0x5, 0⟩, ready := true }

/-! ## WellFormed: the checks accept the table, and each refuses a term that breaks it alone -/

theorem test_records_wf : tpd.WF ∧ tpl.WF ∧ tman.WF ∧ tmani.WF ∧ tiny.WF := by decide
theorem cfg_wf : cfg.WF :=
  ⟨by decide, ⟨by
    simpa only [cfg, List.forall_mem_cons, List.not_mem_nil, false_imp_iff, implies_true, and_true]
      using ⟨test_records_wf.1, test_records_wf.2.1, test_records_wf.2.2.1, test_records_wf.2.2.2.1⟩,
    by decide⟩, by decide⟩
theorem tinyCfg_wf : tinyCfg.WF :=
  ⟨by decide, ⟨by
    simpa only [tinyCfg, List.forall_mem_cons, List.not_mem_nil, false_imp_iff, implies_true, and_true]
      using test_records_wf.2.2.2.2,
    by decide⟩, by decide⟩

/-- Every operation is well-formed (R90 puts no condition on an operand). -/
theorem test_instr_wf : (Instr.send 0 0 0 0).WF := trivial
theorem test_W1_refuses : { tpd with id := 0 }.wf = false ∧ ¬ { tpd with id := 0 }.W1 := by decide
theorem test_W2_refuses : { tpd with flags := 0x62 }.wf = false ∧ { tpd with rsvd := 1 }.wf = false ∧
    ¬ { tpd with flags := 0xA2 }.W2 := by decide
theorem test_W3_refuses : { tpd with addrBits := 17 }.wf = false ∧
    { tpd with addrBits := 0, cmdBits := 0 }.wf = false ∧
    ¬ { tpd with addrBits := 16, cmdBits := 17 }.W3 := by decide
theorem test_W4_refuses : { tpd with nSub := 0 }.wf = false ∧ ¬ { tpd with nSub := 0 }.W4 := by decide
theorem test_W5_refuses : { tpd with hdrPulse := tm 2 2 }.wf = false ∧
    { tpd with hdrPulse := tm 0xFFFE 1 }.wf = false ∧ ¬ { tpd with rptPause := tm 0 0 }.W5 := by decide
theorem test_W6_refuses : { tpd with rptPause := tm 7 1 }.wf = false ∧
    ¬ { tpl with flags := 0x38 }.W6 := by decide
theorem test_W7_refuses : { tman with p1Pause := tm 4 0 }.wf = false ∧
    { tman with gap := 10 }.wf = false ∧ ¬ { tman with flags := 0x03 }.W7 := by decide
theorem test_W8_refuses : { tpl with p0Pulse := tm 5 1 }.wf = false ∧
    { tpl with gap := 4 }.wf = false ∧ ¬ { tpl with p0Pause := tm 3 0 }.W8 := by decide
theorem test_W9_refuses : { tpd with p0Pause := tm 5 1 }.wf = false ∧
    ¬ { tpd with flags := 0x00 }.W9 := by decide
theorem test_W10_refuses : { tpd with gap := 0 }.wf = false ∧
    ¬ { tpd with repWindow := 0xFFFF }.W10 := by decide
theorem test_config_refuses : ¬ { cfg with table := [] }.CountWF ∧
    ¬ { cfg with table := [tpd, { tpl with id := 1 }] }.TableWF ∧
    ¬ { cfg with fRxCode := 999 }.RateWF ∧ ¬ { cfg with fRxCode := 2001 }.RateWF := by decide

/-! ## Decoding: words written out bit by bit from R80 to R89 -/

/-- `op = 0000`, sixty zeros. -/
theorem test_decode_nop : decode (0b0000#4 ++ 0#60) = .ok .nop := by decide
/-- `op = 0001`, `w[0]` the sample. -/
theorem test_decode_tick : decode (0b0001#4 ++ 0#59 ++ 0b1#1) = .ok (.tick true) ∧
    decode (0b0001#4 ++ 0#59 ++ 0b0#1) = .ok (.tick false) := by decide
/-- `op = 0010`, proto `w[59:52]`, addr `w[51:36]`, cmd `w[35:4]`, reps `w[3:0]`. -/
theorem test_decode_send :
    decode (0b0010#4 ++ 0b00000001#8 ++ 0b0000000000001010#16 ++ 0b0101#32 ++ 0b0011#4) =
      .ok (.send 1 0xA 0x5 3) ∧
    decode 0x2FF8001800000019#64 = .ok (.send 0xFF 0x8001 0x80000001 9) := by decide
theorem test_decode_getResult : decode (0b0011#4 ++ 0#60) = .ok .getResult := by decide
theorem test_decode_rdStatus : decode (0b0100#4 ++ 0#60) = .ok .rdStatus := by decide
theorem test_decode_setCb : decode (0b0101#4 ++ 0#59 ++ 0b1#1) = .ok (.setCb true) := by decide
theorem test_decode_cfgRx : decode (0b0110#4 ++ 0#60) = .ok .cfgRx := by decide
/-- `op = 0111`, proto `w[59:52]`. -/
theorem test_decode_cfgTx : decode (0b0111#4 ++ 0b10000001#8 ++ 0#52) = .ok (.cfgTx 0x81) := by decide
/-- `op = 1000`, snapshot `w[31:0]`. -/
theorem test_decode_restore : decode (0b1000#4 ++ 0#28 ++ 0x0001076C#32) =
    .ok (.restore 0x1076C) := by decide
theorem test_decode_illegal : decode 0x9000000000000000#64 = .illegal (.illegalOpcode 9) ∧
    decode 0xFFFFFFFFFFFFFFFF#64 = .illegal (.illegalOpcode 15) ∧
    decode 0x1000000000000002#64 = .illegal (.reservedBit "TICK") ∧
    decode 0x7010000000000001#64 = .illegal (.reservedBit "CFG_TX") ∧
    decode 0x8000000100000000#64 = .illegal (.reservedBit "RESTORE") := by decide
/-- The bytes of `SEND 1, 0xA, 0x5, 0`, least significant first (R62); seven bytes are no word. -/
theorem test_decode_bytes :
    decodeBytes [0x50, 0x00, 0x00, 0x00, 0xA0, 0x00, 0x10, 0x20, 0xEE] =
      .ok (.send 1 0xA 0x5 0, [0xEE]) ∧
    decodeBytes [0, 0, 0, 0, 0, 0, 0] = .illegal (.tooShort 7) := by decide
/-- Records 0 and 3 as halfwords, from the image of 95_test_vectors.md section 2; the table's end. -/
theorem test_table_image :
    (List.range 22).map cfg.memRead = List.map some
      [0x2201, 0x0404, 0x0004, 0x0010, 0x0002, 0x0008, 0x0002, 0x0002, 0x0001, 0x0006, 0x0001,
       0x0002, 0x0001, 0x0002, 0x0001, 0x0010, 0x0002, 0x0004, 0x0001, 0x0028, 0x012C, 0x1DB0] ∧
    (List.range' 66 22).map cfg.memRead = List.map some
      [0x1504, 0x0303, 0x0001, 0x0014, 0x0001, 0x0005, 0x0001, 0x0003, 0x0000, 0x0003, 0x0000,
       0x0003, 0x0000, 0x0003, 0x0000, 0x0001, 0x0000, 0x0001, 0x0000, 0x0014, 0x0096, 0x076C] ∧
    cfg.memRead 22 = some 0x1802 ∧ cfg.memRead 88 = none := by decide

/-! ## Single steps -/

/-- Example of R240: the first `TICK 1` after reset. -/
theorem test_tick_after_reset : exec (.tick true) st = .next { st with
    dec := { DecRegs.cleared with pulseTime := 1 }, resp := some 0x1000000000000000#64 } := rfl
/-- The stop mark of the frame of R189 ends: the response of R92's example, with and without strobe. -/
theorem test_tick_emits :
    (match exec (.tick false) (rx (recv 0 8 2 0 false false)) with
     | .next t => t.resp = some 0x001000A000000050#64 ∧ t.ready = true | _ => False) ∧
    (match exec (.tick false) { rx (recv 0 8 2 0 false false) with cbEn := true } with
     | .next t => t.resp = some 0x001000A000000054#64 | _ => False) := ⟨⟨rfl, rfl⟩, rfl⟩
/-- Example of R200. -/
theorem test_send_accepted :
    (match exec (.send 1 0xA 0x5 0) st with
     | .next t => t.resp = some 0#64 ∧ t.arb.mode = .tx ∧ t.enc.frame = 0xA5 ∧ t.enc.dur = 1 ∧
         t.enc.sub = 1 ∧ t.enc.active = true ∧ t.arb.snap = 0xDEADBEEF | _ => False) :=
  ⟨rfl, rfl, rfl, rfl, rfl, rfl, rfl⟩
/-- R302: an unknown protocol during a send answers busy. -/
theorem test_send_busy_first : exec (.send 9 0 0 0) (tx (sending 0 .start 0 1 1)) =
    .next { tx (sending 0 .start 0 1 1) with resp := some 0x2000000000000000#64 } := rfl
/-- Example of R260. -/
theorem test_getResult : exec .getResult pending =
    .next { pending with ready := false, resp := some 0x001000A000000050#64 } := rfl
/-- Example of R262: during a send, nothing pending. -/
theorem test_rdStatus : exec .rdStatus (tx (sending 0 .start 0 1 1)) =
    .next { tx (sending 0 .start 0 1 1) with resp := some 0x0000000000000006#64 } := rfl
theorem test_setCb : exec (.setCb true) st = .next { st with cbEn := true, resp := some 0#64 } := rfl
theorem test_cfgRx_refused : exec .cfgRx (tx (sending 0 .start 0 1 1)) =
    .next { tx (sending 0 .start 0 1 1) with resp := some 0x2000000000000000#64 } := rfl
/-- Example of R244 with another `timer_cfg`: the answer is the configuration before. -/
theorem test_cfgTx : (match exec (.cfgTx 1) st with
    | .next t => t.resp = some 0x00000000DEADBEEF#64 ∧ t.arb.snap = 0xDEADBEEF | _ => False) :=
  ⟨rfl, rfl⟩
/-- Example of R246. -/
theorem test_restore : (match exec (.restore 0x1076C) (tx EncRegs.atReset) with
    | .next t => t.resp = some 0#64 ∧ t.arb.timerCfg = 0x1076C ∧ t.arb.mode = .rx | _ => False) :=
  ⟨rfl, rfl, rfl⟩
theorem test_nop : exec .nop st = .next { st with resp := some 0#64 } := rfl
/-- The first instruction after reset is the one placed, and an illegal one is answered. -/
theorem test_first_after_reset :
    step (State.reset.withFetchWord 64 0x5000000000000001) = exec (.setCb true) State.reset ∧
    step (State.reset.withFetchWord 64 0x9000000000000000) =
      .next { State.reset with resp := some 0xF000000000000000#64 } := ⟨rfl, rfl⟩

/-! ## States that meet the statements' hypotheses -/

/-- The invariants, checked one by one. -/
def invB (s : State) : Bool :=
  decide s.I1 && decide s.I2 && decide s.I3 && decide s.I4 && decide s.I5 && decide s.I6 &&
  decide s.I7 && decide s.I8 && decide s.I9 && decide s.I10 && decide s.J1 && decide s.J2 &&
  decide s.J3 && decide s.J4

theorem inv_of {s : State} (h : invB s = true) : s.Inv := by
  simp only [invB, Bool.and_eq_true, decide_eq_true_eq] at h
  obtain ⟨⟨⟨⟨⟨⟨⟨⟨⟨⟨⟨⟨⟨h1, h2⟩, h3⟩, h4⟩, h5⟩, h6⟩, h7⟩, h8⟩, h9⟩, h10⟩, j1⟩, j2⟩, j3⟩, j4⟩ := h
  exact ⟨⟨h1, h2, h3, h4, h5, h6, h7, h8, h9, h10⟩, j1, j2, j3, j4⟩

theorem good_of {s : State} (hc : s.cfg = cfg) (h : invB s = true) : s.Good :=
  ⟨hc ▸ cfg_wf, inv_of h⟩

theorem witness_DecodeOfEncode : (Instr.send 0xFF 0xFFFF 0xFFFFFFFF 0xF).WF := trivial
theorem witness_EncodeOfDecode : decode 0x2FFFFFFFFFFFFFFF#64 =
    .ok (.send 0xFF 0xFFFF 0xFFFFFFFF 0xF) := by decide
theorem witness_DecodeMatchesOpcodeTable :
    (⟨"RESTORE", 0x8000000000000000#64, 0xFFFFFFFF00000000#64⟩ : OpRow) ∈ opcodeTable := by decide
theorem witness_IllegalWordsAreAnswered :
    (Reserved 0x9000000000000000#64 ∧ Reserved 0x0000000000000001#64 ∧ Reserved 0x1000000000000002#64 ∧
      Reserved 0x7000000000000001#64 ∧ Reserved 0x8000000100000000#64 ∧
      ¬ Reserved 0x1000000000000001#64) ∧
    (let s := { st with input := [.op 0x9000000000000000#64] }
     s.tickPending = none ∧ s.input = .op 0x9000000000000000#64 :: []) :=
  ⟨⟨by decide, by decide, by decide, by decide, by decide, by decide⟩, rfl, rfl⟩
theorem witness_WordsAsBytes : (7 : Nat) < 8 := by decide
theorem witness_RecordImageLayout : 3 < cfg.nproto ∧ 21 < 22 ∧
    Desc.ofHalfwords tpd.halfwords = some tpd := by decide
theorem witness_StepRunsDecodedOperation :
    (let s := { st with input := [.op 0x1000000000000001#64] }
     s.tickPending = none ∧ s.input = .op 0x1000000000000001#64 :: [] ∧
       decode 0x1000000000000001#64 = .ok (.tick true) ∧ (Instr.tick true).WF) ∧
    decodeTableWord 64 0x1000000000000001 = some (.tick true) := by decide
theorem witness_StepTakesPendingTickFirst :
    (let s := { st with tickPending := some true, input := [.op 0#64] }
     s.tickPending = some true ∧ ∀ rest, s.input ≠ .reset :: rest) ∧ st.tickPending = none :=
  ⟨⟨rfl, fun _ h => by cases h⟩, rfl⟩
theorem witness_StepAppliesReset : { st with input := [.reset] }.input = .reset :: [] := rfl
theorem witness_StepWaitsForInput : st.input = [] ∧ st.tickPending = none := ⟨rfl, rfl⟩
theorem witness_GetResultTakesTheResult : pending.ready = true ∧ st.ready = false ∧
    ∃ t, exec .getResult st = .next t := ⟨rfl, rfl, _, rfl⟩
theorem witness_RdStatusReadsFourBits : st.Inv := inv_of (by decide)
theorem witness_CfgRxConfiguresReceive : st.enc.active = false ∧
    (tx (sending 0 .start 0 1 1)).enc.active = true ∧ ∃ t, exec .cfgRx st = .next t :=
  ⟨rfl, rfl, _, rfl⟩
theorem witness_CfgTxSwitchesToSend :
    (st.cfg.WF ∧ st.arb.mode = .rx ∧ 3 < st.cfg.nproto ∧ (st.cfg.desc 3).id = 4) ∧
    (¬ st.Knows 0 ∧ ¬ st.Knows 5) ∧
    ((tx (sending 0 .start 0 1 1)).arb.mode = .tx ∧ (tx EncRegs.atReset).arb.mode = .tx) :=
  ⟨⟨cfg_wf, rfl, by decide, rfl⟩, by decide, rfl, rfl⟩
theorem witness_RestoreWritesTimerConfig : st.enc.active = false ∧
    (tx (sending 0 .start 0 1 1)).enc.active = true := ⟨rfl, rfl⟩
theorem witness_SnapshotRestoresConfiguration_cfgTx :
    st.Good ∧ (∃ t, exec (.cfgTx 4) st = .next t ∧
      t.resp = some (0x0#4 ++ 0#28 ++ 0xDEADBEEF#32)) ∧
    ∀ i ∈ [Instr.tick true, .nop, .rdStatus, .getResult, .setCb true], QuietOp i :=
  ⟨good_of rfl (by decide), ⟨_, rfl, rfl⟩, by simp [QuietOp]⟩
/-- Seven ticks of the shortest table: the send is over. -/
theorem witness_SnapshotRestoresConfiguration_send :
    (State.resetWith tinyCfg).Good ∧
    ∃ t u, exec (.send 5 0 1 0) (State.resetWith tinyCfg) = .next t ∧ t.resp = some 0#64 ∧
      execAll ((List.replicate 7 false).map .tick) t = .next u ∧ u.enc.active = false :=
  ⟨⟨tinyCfg_wf, inv_of (by decide)⟩, _, _, rfl, rfl, rfl, rfl⟩
theorem witness_TickGoesToOneMachine :
    ((tx EncRegs.atReset).arb.mode = .tx ∧ ∃ t, exec (.tick true) (tx EncRegs.atReset) = .next t) ∧
    (st.arb.mode = .rx ∧ ∃ t, exec (.tick true) st = .next t) := ⟨⟨rfl, _, rfl⟩, rfl, _, rfl⟩
theorem witness_OnlyArbiterWritesTimer :
    (∃ t, exec (.restore 1) st = .next t ∧ t.arb.timerCfg ≠ st.arb.timerCfg) ∧
    (let s := { st with arb := { st.arb with snap := 0 } }
     ∃ t, exec (.cfgTx 1) s = .next t ∧ t.arb.snap ≠ s.arb.snap) :=
  ⟨⟨_, rfl, by decide⟩, _, rfl, by decide⟩
theorem witness_ArbiterStateTable :
    (st.Good ∧ st.arbState = (.rx, false)) ∧
    ((tx (sending 0 .start 0 1 1)).Good ∧ (tx (sending 0 .start 0 1 1)).arbState = (.tx, true)) ∧
    ((tx EncRegs.atReset).Good ∧ (tx EncRegs.atReset).arbState = (.tx, false)) :=
  ⟨⟨good_of rfl (by decide), rfl⟩, ⟨good_of rfl (by decide), rfl⟩, good_of rfl (by decide), rfl⟩
theorem witness_RefusalsChangeNothing :
    ∃ t, exec (.send 9 0 0 0) st = .next t ∧ t.resp = some 0x4000000000000000#64 ∧
      statusOf 0x4000000000000000#64 ∈ [0x2#4, 0x3#4, 0x4#4] := ⟨_, rfl, rfl, by decide⟩
theorem witness_SendAcceptsOrRefuses :
    (st.cfg.WF ∧ st.arb.mode = .rx ∧ 0 < st.cfg.nproto ∧ (st.cfg.desc 0).id = 1) ∧ ¬ st.Knows 0 ∧
    (tx EncRegs.atReset).arb.mode = .tx := ⟨⟨cfg_wf, rfl, by decide, rfl⟩, by decide, rfl⟩
theorem witness_AssembleExtractInverse : tpl.W3 ∧ (0xFF#32).toNat < 2 ^ tpl.nbits := by decide
theorem witness_FrameBitOrder : tpl.W3 ∧ 2 < tpl.addrBits.toNat ∧ 4 < tpl.cmdBits.toNat ∧
    tpl.nbits ≤ 8 ∧ 7 < tpl.nbits := by decide
theorem witness_EncoderTickCounts :
    ((tx EncRegs.atReset).arb.mode = .tx ∧ (tx EncRegs.atReset).enc.active = false) ∧
    (let s := tx (sending 0 .gap 0 1 2)
     s.Good ∧ s.enc.active = true ∧ 1 < s.enc.sub.toNat) ∧
    (let s := tx (sending 0 .gap 0 2 1)
     s.Good ∧ s.enc.active = true ∧ s.enc.sub = 1#8 ∧ 1 < s.enc.dur.toNat) :=
  ⟨⟨rfl, rfl⟩, ⟨good_of rfl (by decide), rfl, by decide⟩, good_of rfl (by decide), rfl, rfl, by decide⟩
theorem witness_FrameSegmentsInOrder :
    (let s := tx (sending 0 .start 0 1 1)
     s.Good ∧ s.SegmentEnds ∧ s.enc.phase = .start) ∧
    (let s := tx (sending 0 .hdrMark 0 1 1)
     s.Good ∧ s.SegmentEnds ∧ s.enc.phase = .hdrMark) ∧
    (let s := tx { sending 0 .hdrSpace 0 1 1 with rptFrame := true }
     s.Good ∧ s.SegmentEnds ∧ s.enc.phase = .hdrSpace ∧ s.enc.rptFrame = true) ∧
    (let s := tx (sending 0 .stopMark 0 1 1)
     s.Good ∧ s.SegmentEnds ∧ s.enc.phase = .stopMark) ∧
    (let s := tx { sending 0 .gap 0 1 1 with repLeft := 1 }
     s.Good ∧ s.SegmentEnds ∧ s.enc.phase = .gap ∧ s.enc.repLeft ≠ 0#4) :=
  ⟨⟨good_of rfl (by decide), by decide, rfl⟩, ⟨good_of rfl (by decide), by decide, rfl⟩,
   ⟨good_of rfl (by decide), by decide, rfl, rfl⟩, ⟨good_of rfl (by decide), by decide, rfl⟩,
   good_of rfl (by decide), by decide, rfl, by decide⟩
theorem witness_DataBitSegments :
    (let s := tx (sending 2 .hdrSpace 0 1 1)
     s.Good ∧ s.SegmentEnds ∧ s.enc.phase = .hdrSpace ∧ s.enc.rptFrame = false) ∧
    (let s := tx (sending 2 .bitA 5 1 1)
     s.Good ∧ s.SegmentEnds ∧ s.enc.phase = .bitA) ∧
    (let s := tx (sending 0 .bitB 6 1 1)
     s.Good ∧ s.SegmentEnds ∧ s.enc.phase = .bitB ∧ s.enc.bitIdx.toNat + 1 < s.encDesc.nbits) ∧
    (let s := tx (sending 0 .bitB 7 1 1)
     s.Good ∧ s.SegmentEnds ∧ s.enc.phase = .bitB ∧ ¬ s.enc.bitIdx.toNat + 1 < s.encDesc.nbits) :=
  ⟨⟨good_of rfl (by decide), by decide, rfl, rfl⟩, ⟨good_of rfl (by decide), by decide, rfl⟩,
   ⟨good_of rfl (by decide), by decide, rfl, by decide⟩,
   good_of rfl (by decide), by decide, rfl, by decide⟩
theorem witness_LastGapFinishesSend :
    let s := tx (sending 0 .gap 7 1 1)
    s.Good ∧ s.SegmentEnds ∧ s.enc.phase = .gap ∧ s.enc.repLeft = 0#4 :=
  ⟨good_of rfl (by decide), by decide, rfl, rfl⟩
theorem witness_PinDriveRule :
    let s := tx (sending 0 .start 0 1 1)
    s.Good ∧ s.arb.mode = .tx := ⟨good_of rfl (by decide), rfl⟩
theorem witness_PinChangesOnlyInEncoderTick :
    let s := tx (sending 0 .start 0 1 1)
    s.Inv ∧ ∃ t, exec (.tick false) s = .next t ∧ t.pin ≠ s.pin :=
  ⟨inv_of (by decide), _, rfl, by decide⟩
theorem witness_SendPlaysItsSegments :
    st.Good ∧ st.arb.mode = .rx ∧ 2 < st.cfg.nproto ∧ (st.cfg.desc 2).id = 3 ∧
    1 ≤ [true].length ∧ [true].length < sendTicks (st.cfg.desc 2) ((st.cfg.desc 2).assemble 2 9) 0 ∧
    (List.replicate (sendTicks (st.cfg.desc 2) ((st.cfg.desc 2).assemble 2 9) 0) true).length =
      sendTicks (st.cfg.desc 2) ((st.cfg.desc 2).assemble 2 9) 0 :=
  ⟨good_of rfl (by decide), rfl, by decide, rfl, by decide, by decide, List.length_replicate⟩
theorem witness_HoldOnlyCounts : pending.arb.mode = .rx ∧ pending.ready = true := ⟨rfl, rfl⟩
theorem witness_RepeatTimerCounts : (st.Good ∧ st.arb.mode = .rx) ∧
    (∃ t, exec .nop st = .next t) ∧ (∀ b, Instr.nop ≠ .tick b) ∧
    ∃ t, exec (.tick true) (tx EncRegs.atReset) = .next t :=
  ⟨⟨good_of rfl (by decide), rfl⟩, ⟨_, rfl⟩, by simp, _, rfl⟩
theorem witness_LeadingMarkCounts : (st.Listening ∧ st.dec.startBitDetected = false) ∧ cfg.WF ∧
    tpd ∈ cfg.table ∧ tpd.hasRpt = true := ⟨⟨by decide, rfl⟩, cfg_wf, by decide, rfl⟩
/-- IDLE with the leading mark `p` counted. -/
def leading (p : Half) : State := rx { DecRegs.cleared with pulseTime := p }
/-- The mark fits a header mark or a repeat-header mark of the table. -/
abbrev fits (p : Half) : Prop :=
  ∃ d ∈ cfg.table, d.hdrPulse.Has p ∨ (d.hasRpt = true ∧ d.rptPulse.Has p)
/-- The marks 14 and 18 are the ends of record 1's window, 5 fits nothing. -/
theorem witness_LeadingMarkEnds :
    (st.Listening ∧ st.dec.startBitDetected = false ∧ st.dec.pulseTime = 0#16) ∧
    ((leading 14).Listening ∧ (leading 14).dec.startBitDetected = false ∧ fits 14) ∧
    ((leading 18).Listening ∧ (leading 18).dec.startBitDetected = false ∧ fits 18) ∧
    ((leading 5).Listening ∧ (leading 5).dec.startBitDetected = false ∧
      ∀ d ∈ cfg.table, ¬ d.hdrPulse.Has 5#16 ∧ ¬ (d.hasRpt = true ∧ d.rptPulse.Has 5#16)) := by
  decide
theorem witness_HeaderSpaceCounts :
    (rx (seen 16 9)).Listening ∧ (rx (seen 16 9)).decState = .startBitSeen ∧
    (rx (seen 16 10)).Listening ∧ (rx (seen 16 10)).decState = .startBitSeen := by decide
/-- A header space is being measured: `Listening` and the state START_BIT_SEEN. -/
abbrev InHeader (s : State) : Prop := s.Listening ∧ s.decState = .startBitSeen
/-- The ends of the windows of the normal and the repeat header of record 1 and of the shifted header of
record 3, behind records that do not fit; and a header that fits none. -/
theorem witness_HeaderMatchEnters_normal :
    st.cfg.WF ∧ 0 < st.cfg.nproto ∧ InHeader (rx (seen 16 6)) ∧ Normal (cfg.desc 0) 16 6 ∧
    InHeader (rx (seen 16 10)) ∧ Normal (cfg.desc 0) 16 10 := ⟨cfg_wf, by decide⟩
theorem witness_HeaderMatchEnters_shifted :
    st.cfg.WF ∧ 2 < st.cfg.nproto ∧
    InHeader (rx (seen 12 6)) ∧ Shifted (cfg.desc 2) 12 6 ∧ (∀ j < 2, NoHeader (cfg.desc j) 12 6) ∧
    InHeader (rx (seen 12 10)) ∧ Shifted (cfg.desc 2) 12 10 ∧
      (∀ j < 2, NoHeader (cfg.desc j) 12 10) :=
  ⟨cfg_wf, by decide, by decide, by decide, by decide, by decide, by decide, by decide⟩
theorem witness_HeaderMatchEnters_rpt :
    st.cfg.WF ∧ 0 < st.cfg.nproto ∧ InHeader (rx (seen 16 3)) ∧ Rpt (cfg.desc 0) 16 3 ∧
    InHeader (rx (seen 16 5)) ∧ Rpt (cfg.desc 0) 16 5 := ⟨cfg_wf, by decide⟩
theorem witness_HeaderMatchEnters_none :
    st.cfg.WF ∧ (let s := rx (seen 16 2)
    s.Listening ∧ s.decState = .startBitSeen ∧
      ∀ j < s.cfg.nproto, NoHeader (s.cfg.desc j) s.dec.pulseTime s.dec.pauseTime) :=
  ⟨cfg_wf, by decide⟩
/-- A good state in RECEIVING_BITS, Manchester or not, measuring the mark or the space. -/
abbrev Recv (man ws : Bool) (s : State) : Prop :=
  s.Good ∧ s.Listening ∧ s.decState = .receivingBits ∧ s.cand.isManchester = man ∧ s.dec.waitSpace = ws
/-- A good state in STOP_BIT_EXPECTED. -/
abbrev Stop (s : State) : Prop := s.Good ∧ s.Listening ∧ s.decState = .stopBitExpected

theorem recv_of {man ws : Bool} {s : State} (hc : s.cfg = cfg) (hi : invB s = true)
    (h : s.Listening ∧ s.decState = .receivingBits ∧ s.cand.isManchester = man ∧
      s.dec.waitSpace = ws) : Recv man ws s := ⟨good_of hc hi, h⟩

theorem stop_of {s : State} (hc : s.cfg = cfg) (hi : invB s = true)
    (h : s.Listening ∧ s.decState = .stopBitExpected) : Stop s := ⟨good_of hc hi, h⟩

/-- A data mark at 2, and at 3 where the next mark sample is one too many. -/
theorem witness_DataMarkMeasured :
    Recv false false (rx (recv 0 0 2 0 false false)) ∧ Recv false false (rx (recv 0 0 3 0 false false)) :=
  ⟨recv_of rfl (by decide) (by decide), recv_of rfl (by decide) (by decide)⟩
/-- A 1 and a 0 of record 1 at the ends of their windows, a bit that is neither, and the last bit of a
frame without stop bit. -/
theorem witness_DataBitStored :
    (Recv false true (rx (recv 0 7 2 7 true false)) ∧ (cfg.desc 0).p1Pulse.Has 2 ∧
      (cfg.desc 0).p1Pause.Has 7) ∧
    (Recv false true (rx (recv 0 7 2 1 true false)) ∧ (cfg.desc 0).p0Pulse.Has 2 ∧
      (cfg.desc 0).p0Pause.Has 1) ∧
    (Recv false true (rx (recv 0 7 2 4 true false)) ∧ ¬ (cfg.desc 0).p1Pause.Has 4 ∧
      ¬ (cfg.desc 0).p0Pause.Has 4) ∧
    (Recv false true (rx (recv 1 7 6 3 true false)) ∧ (cfg.desc 1).p1Pulse.Has 6 ∧
      (cfg.desc 1).p1Pause.Has 3 ∧ (cfg.desc 1).nbits = 8 ∧ (cfg.desc 1).hasStop = false) :=
  ⟨⟨recv_of rfl (by decide) (by decide), by decide⟩, ⟨recv_of rfl (by decide) (by decide), by decide⟩,
   ⟨recv_of rfl (by decide) (by decide), by decide⟩, recv_of rfl (by decide) (by decide), by decide⟩
/-- The space of the last bit of record 2 at 3, and at 4 where the next sample completes the frame. -/
theorem witness_DataSpaceMeasured :
    Recv false true (rx (recv 1 7 6 3 true false)) ∧ Recv false true (rx (recv 1 7 6 4 true false)) :=
  ⟨recv_of rfl (by decide) (by decide), recv_of rfl (by decide) (by decide)⟩
/-- A repeat code at its stop mark, at the last tick of the window of record 1. -/
def rptStop : State :=
  { rx { recv 0 0 1 0 false false with rpt := true } with rep := ⟨299, true, 1, 0xA, 0x5⟩ }
/-- The stop mark at the ends of its window and outside; and of a repeat code. -/
theorem witness_StopMarkCompletes :
    (Stop (rx (recv 0 8 1 0 false false)) ∧ Stop (rx (recv 0 8 3 0 false false)) ∧
      Stop (rx (recv 0 8 4 0 false false))) ∧
    ((cfg.desc 0).p0Pulse.Has 1 ∧ (cfg.desc 0).p0Pulse.Has 3 ∧ ¬ (cfg.desc 0).p0Pulse.Has 4) ∧
    (Stop rptStop ∧ rptStop.dec.rpt = true ∧ rptStop.cand.p0Pulse.Has rptStop.dec.pulseTime ∧
      (satInc rptStop.rep.timer).toNat = rptStop.cand.repWindow.toNat) :=
  ⟨⟨stop_of rfl (by decide) (by decide), stop_of rfl (by decide) (by decide),
    stop_of rfl (by decide) (by decide)⟩, by decide, stop_of rfl (by decide) (by decide), by decide⟩
/-- A mark of record 3 from a boundary at 4 and 5, and from mid-bit at 10. -/
theorem witness_ManchesterMarkMeasured :
    Recv true false (rx (recv 2 1 4 0 false false)) ∧ Recv true false (rx (recv 2 1 5 0 false false)) ∧
    Recv true false (rx (recv 2 1 10 0 false true)) :=
  ⟨recv_of rfl (by decide) (by decide), recv_of rfl (by decide) (by decide),
   recv_of rfl (by decide) (by decide)⟩
/-- The five pairs of record 3 at the ends of the windows `[3, 5]` and `[6, 10]`, and two that fail. -/
theorem witness_ManchesterPairStores :
    Recv true true (rx (recv 2 4 3 5 true false)) ∧ Recv true true (rx (recv 2 4 5 10 true false)) ∧
    Recv true true (rx (recv 2 4 3 5 true true)) ∧ Recv true true (rx (recv 2 4 6 3 true true)) ∧
    Recv true true (rx (recv 2 4 10 6 true true)) ∧ Recv true true (rx (recv 2 4 4 6 true true)) ∧
    Recv true true (rx (recv 2 4 2 4 true false)) ∧
    (Short (cfg.desc 2) 3 ∧ Short (cfg.desc 2) 5 ∧ Long (cfg.desc 2) 6 ∧ Long (cfg.desc 2) 10 ∧
      ¬ Short (cfg.desc 2) 6 ∧ ¬ Long (cfg.desc 2) 4 ∧ ¬ Short (cfg.desc 2) 2) :=
  ⟨recv_of rfl (by decide) (by decide), recv_of rfl (by decide) (by decide),
   recv_of rfl (by decide) (by decide), recv_of rfl (by decide) (by decide),
   recv_of rfl (by decide) (by decide), recv_of rfl (by decide) (by decide),
   recv_of rfl (by decide) (by decide), by decide⟩
/-- The tenth space sample, and the eleventh with the last bit still to store from a boundary and from
mid-bit, already stored, missing. -/
theorem witness_VirtualTickEndsFrame :
    Recv true true (rx (recv 2 5 4 9 true false)) ∧ Recv true true (rx (recv 2 5 4 10 true false)) ∧
    Recv true true (rx (recv 2 5 8 10 true true)) ∧ Recv true true (rx (recv 2 6 4 10 true true)) ∧
    Recv true true (rx (recv 2 3 4 10 true false)) :=
  ⟨recv_of rfl (by decide) (by decide), recv_of rfl (by decide) (by decide),
   recv_of rfl (by decide) (by decide), recv_of rfl (by decide) (by decide),
   recv_of rfl (by decide) (by decide)⟩
theorem witness_EmittedResult :
    ∃ t r, exec (.tick false) (rx (recv 0 8 2 0 false false)) = .next t ∧ t.resp = some r ∧
      statusOf r = 0x0#4 := ⟨_, _, rfl, rfl, by decide⟩
theorem witness_SilentTickLeavesNoTrace :
    ∃ t r, st.arb.mode = .rx ∧ exec (.tick false) st = .next t ∧ t.resp = some r ∧
      statusOf r ≠ 0x0#4 := ⟨_, _, rfl, rfl, rfl, by decide⟩
theorem witness_BitPositionMonotone : (rx (recv 0 8 2 0 false false)).Good := good_of rfl (by decide)
theorem witness_PendingResultHeld : pending.Good ∧ pending.ready = true ∧
    .getResult ∉ [Instr.tick true, .send 1 0xA 0x5 0, .tick false] :=
  ⟨good_of rfl (by decide), rfl, by decide⟩
/-- Record 1 at index 0, and the Manchester record 3 behind two records that its header does not fit. -/
theorem witness_RoundTripLaw :
    st.cfg.WF ∧ st.Listening ∧ st.dec = .cleared ∧
    (0 < st.cfg.nproto ∧ (0xF#16).toNat < 2 ^ (st.cfg.desc 0).addrBits.toNat ∧
      (0xF#32).toNat < 2 ^ (st.cfg.desc 0).cmdBits.toNat ∧
      headerSpace (st.cfg.desc 0) ((st.cfg.desc 0).assemble 0xF 0xF) ≤ 0xFFFF) ∧
    (let d := st.cfg.desc 2
     2 < st.cfg.nproto ∧ (1#16).toNat < 2 ^ d.addrBits.toNat ∧ (9#32).toNat < 2 ^ d.cmdBits.toNat ∧
      headerSpace d (d.assemble 1 9) = 8 ∧
      ∀ j < 2, NoHeader (st.cfg.desc j) d.hdrPulse.exp (BitVec.ofNat 16 (headerSpace d (d.assemble 1 9)))) :=
  ⟨cfg_wf, by decide, rfl, by decide, by decide⟩
/-- The window's last tick: 277 + 22 + 1 = 300. -/
theorem witness_RepeatCodeRoundTrip :
    let s := { st with rep := ⟨277, true, 1, 0xA, 0x5⟩ }
    s.cfg.WF ∧ s.Listening ∧ s.dec = .cleared ∧ 0 < s.cfg.nproto ∧ (s.cfg.desc 0).hasRpt = true ∧
    s.rep.lastValid = true ∧ s.rep.lastProto = (s.cfg.desc 0).id ∧
    s.rep.timer.toNat + ((s.cfg.desc 0).rptPulse.exp.toNat + (s.cfg.desc 0).rptPause.exp.toNat +
      (s.cfg.desc 0).p0Pulse.exp.toNat) + 1 = (s.cfg.desc 0).repWindow.toNat :=
  ⟨cfg_wf, by decide, rfl, by decide, rfl, rfl, rfl, by decide⟩
theorem witness_TimerValuesDoNotMatter : ∃ t, exec (.cfgTx 1) st = .next t := ⟨_, rfl⟩
theorem witness_StepKeepsInv :
    let s := { st with input := [.op (encode (.tick true))] }
    s.cfg.WF ∧ s.Inv ∧ ∃ t, step s = .next t := ⟨cfg_wf, inv_of (by decide), _, rfl⟩
theorem witness_GoodStatesNeverStop : (tx (sending 2 .bitA 5 1 1)).Good := good_of rfl (by decide)
/-- The three arbiter states, and a protocol that the table has and one that it has not. -/
theorem witness_OutDirFollowsMode :
    (st.Inv ∧ st.outDir = .in_) ∧ st.Good ∧ (st.Knows 4 ∧ ¬ st.Knows 5) ∧
    ((tx (sending 0 .gap 7 1 1)).Good ∧ (tx (sending 0 .gap 7 1 1)).outDir = .out) ∧
    ((tx EncRegs.atReset).Good ∧ (tx EncRegs.atReset).outDir = .out) :=
  ⟨⟨inv_of (by decide), rfl⟩, good_of rfl (by decide), by decide, ⟨good_of rfl (by decide), rfl⟩,
   good_of rfl (by decide), rfl⟩

end Sys2Proof.Tests
end

namespace Sys2Proof

/-! ## The descriptor table as halfwords (R13, R60, R61, R95) -/

/-- In a concatenation of blocks of one length `n`, block `i` stands at `n*i` to `n*i + (n - 1)`. -/
theorem getElem?_flatMap_of_length_eq {α β : Type} {f : α → List β} {n : Nat}
    (hf : ∀ a, (f a).length = n) (l : List α) {i k : Nat} (hi : i < l.length) (hk : k < n) :
    (l.flatMap f)[n * i + k]? = (f l[i])[k]? := by
  induction l generalizing i with
  | nil => simp at hi
  | cons a l ih =>
    rw [List.flatMap_cons]
    cases i with
    | zero =>
      have hin : n * 0 + k < (f a).length := by simpa [hf a] using hk
      rw [List.getElem?_append_left hin]
      simp
    | succ i =>
      have hout : (f a).length ≤ n * (i + 1) + k := by rw [hf a, Nat.mul_succ]; omega
      have hoff : n * (i + 1) + k - (f a).length = n * i + k := by rw [hf a, Nat.mul_succ]; omega
      rw [List.getElem?_append_right hout, hoff, ih (by simpa using hi)]
      simp

@[simp] theorem Desc.length_halfwords (d : Desc) : d.halfwords.length = 22 := rfl

@[simp] theorem Config.length_image (c : Config) : c.image.length = 22 * c.nproto := by
  simp [Config.image, Config.nproto, List.length_flatMap, Nat.mul_comm]

/-- Record `i` is read at `22*i` to `22*i + 21` (R13, R60). -/
theorem Config.memRead_record (c : Config) {i k : Nat} (hi : i < c.nproto) (hk : k < 22) :
    c.memRead (22 * i + k) = (c.desc i).halfwords[k]? := by
  rw [c.desc_of_lt i hi]
  exact getElem?_flatMap_of_length_eq Desc.length_halfwords c.table hi hk

/-- Nothing from `22*NPROTO` on is addressable, and everything below is (R61). -/
theorem Config.memRead_eq_none_iff (c : Config) (a : Nat) :
    c.memRead a = none ↔ 22 * c.nproto ≤ a := by
  rw [Config.memRead, List.getElem?_eq_none_iff, c.length_image]

/-- A halfword of record `i`, read by its place in R95's table. -/
theorem Config.memRead_of_halfword {c : Config} {i k : Nat} {h : Half} (hi : i < c.nproto)
    (hh : (c.desc i).halfwords[k]? = some h) : c.memRead (22 * i + k) = some h := by
  obtain ⟨hk, -⟩ := List.getElem?_eq_some_iff.mp hh
  rw [c.memRead_record hi hk, hh]

/-- A halfword is its high byte before its low byte. -/
theorem half_eq_high_append_low (h : Half) : h.extractLsb' 8 8 ++ h.extractLsb' 0 8 = h :=
  (BitVec.extractLsb'_append_extractLsb'_eq_extractLsb' rfl).trans BitVec.extractLsb'_eq_self

/-- Reading a record back from its halfwords: only `h0` to `h2` pack two fields each. -/
theorem Desc.ofHalfwords_halfwords (d : Desc) : Desc.ofHalfwords d.halfwords = some d := by
  simp only [Desc.halfwords, Desc.ofHalfwords, BitVec.extractLsb'_append_eq_left,
    BitVec.extractLsb'_append_eq_right]

/-- Only a record's own halfwords read back as the record: no bit of them is dropped. -/
theorem Desc.halfwords_of_ofHalfwords {hs : List Half} {d : Desc}
    (h : Desc.ofHalfwords hs = some d) : d.halfwords = hs := by
  unfold Desc.ofHalfwords at h
  split at h
  · obtain rfl := Option.some.inj h
    simp only [Desc.halfwords, half_eq_high_append_low]
  · cases h

/-- Settles O7: the image concatenates blocks of 22 halfwords, so each clause is about one block. -/
theorem recordImageLayout : Obligations.RecordImageLayout := by
  refine ⟨fun c _ _ hi hk => c.memRead_record hi hk, Config.memRead_eq_none_iff,
    Desc.ofHalfwords_halfwords, fun _ _ h => Desc.halfwords_of_ofHalfwords h, fun c i hi => ?_⟩
  have field {k : Nat} {h : Half} (hh : (c.desc i).halfwords[k]? = some h) :
      c.memRead (22 * i + k) = some h := Config.memRead_of_halfword hi hh
  refine ⟨⟨_, _, _, field (k := 0) rfl, field rfl, field rfl,
      BitVec.extractLsb'_append_eq_right, BitVec.extractLsb'_append_eq_left,
      BitVec.extractLsb'_append_eq_right, BitVec.extractLsb'_append_eq_left,
      BitVec.extractLsb'_append_eq_right, BitVec.extractLsb'_append_eq_left⟩, ?_⟩
  exact ⟨field rfl, field rfl, field rfl, field rfl, field rfl, field rfl, field rfl,
    field rfl, field rfl, field rfl, field rfl, field rfl, field rfl, field rfl, field rfl,
    field rfl, field rfl, field rfl, field rfl⟩

end Sys2Proof

namespace Sys2Proof.Machine

/-! ## The invariants, sorted by the registers they speak of (R51)

Each operation writes the decoder or the encoder, so the invariants are kept group by group: `DecInv` for
the frame registers, `EncInv` for the encoder and `mode`, and I7 and I9 for the result register. -/

/-- The invariants of the frame registers: I3 to I6, I8, J1 and J4. -/
structure DecInv (c : Config) (r : DecRegs) : Prop where
  candValid_iff : 0 ≤ r.bitpos.toInt ↔ r.candValid = true
  candIdx_lt : r.candValid = true → r.candIdx.toNat < c.nproto
  started : 0 ≤ r.bitpos.toInt → r.startBitDetected = true
  bitpos_bounds : r.candValid = true → -1 ≤ r.bitpos.toInt ∧
    r.bitpos.toInt ≤ ((if r.rpt then 0 else (c.desc r.candIdx.toNat).nbits : Nat) : Int)
  idle : r.startBitDetected = false →
    r.bitpos.toInt = -1 ∧ r.pauseTime = 0#16 ∧ r.waitSpace = false ∧ r.data = 0#32
  rpt : r.rpt = true → (c.desc r.candIdx.toNat).hasRpt = true ∧ r.bitpos.toInt = 0
  noCandidate : r.candValid = false → r.bitpos = bitposIdle
  bitToCome : r.candValid = true → (c.desc r.candIdx.toNat).isManchester = false →
    (c.desc r.candIdx.toNat).hasStop = false →
    r.bitpos.toInt < ((c.desc r.candIdx.toNat).nbits : Int)

/-- What holds of the encoder registers while a send is in progress, but for the segment's duration:
parts of I2, and J2 and J3. -/
structure InSend (c : Config) (e : EncRegs) : Prop where
  active : e.active = true
  sub_pos : 1 ≤ e.sub.toNat
  desc_lt : e.desc.toNat < c.nproto
  hasRpt : e.rptFrame = true → (c.desc e.desc.toNat).hasRpt = true
  bitIdx_lt : e.phase = .bitA ∨ e.phase = .bitB →
    e.bitIdx.toNat < (c.desc e.desc.toNat).nbits

/-- A send in progress, between ticks: the segment has ticks left (I2, J2, J3). -/
structure Sending (c : Config) (e : EncRegs) : Prop extends InSend c e where
  dur_pos : 1 ≤ e.dur.toNat

/-- The invariants of the encoder registers and `mode`: I1, I2, I10, J2 and J3. -/
structure EncInv (c : Config) (m : Mode) (e : EncRegs) : Prop where
  sending : e.active = true → m = .tx ∧ Sending c e
  inactive : e.active = false → e.pinOn = false ∧ e.level = false

theorem inv_iff (s : State) :
    s.Inv ↔ DecInv s.cfg s.dec ∧ EncInv s.cfg s.arb.mode s.enc ∧ s.I7 ∧ s.I9 := by
  constructor
  · rintro ⟨⟨i1, i2, ⟨i3, i3'⟩, i4, i5, i6, i7, i8, i9, i10⟩, j1, j2, j3, j4⟩
    refine ⟨⟨i3, i3', i4, i5, i6, i8, j1, j4⟩, ⟨fun ha => ?_, i10⟩, i7, i9⟩
    obtain ⟨hsub, hdur, hdesc⟩ := i2 ha
    exact ⟨i1 ha, ⟨ha, hsub, hdesc, j2 ha, j3 ha⟩, hdur⟩
  · rintro ⟨d, e, i7, i9⟩
    refine ⟨⟨fun ha => (e.sending ha).1, fun ha => ?_, ⟨d.candValid_iff, d.candIdx_lt⟩, d.started,
      d.bitpos_bounds, d.idle, i7, d.rpt, i9, e.inactive⟩, d.noCandidate,
      fun ha => (e.sending ha).2.hasRpt, fun ha => (e.sending ha).2.bitIdx_lt, d.bitToCome⟩
    obtain ⟨-, h⟩ := e.sending ha
    exact ⟨h.sub_pos, h.dur_pos, h.desc_lt⟩

theorem EncInv.not_active_of_rx {c : Config} {e : EncRegs} (h : EncInv c .rx e) :
    e.active = false := by
  cases ha : e.active with
  | false => rfl
  | true => cases (h.sending ha).1

/-- With no send in progress `mode` may be either. -/
theorem EncInv.of_not_active {c : Config} {m n : Mode} {e : EncRegs} (h : EncInv c m e)
    (ha : e.active = false) : EncInv c n e :=
  ⟨fun ht => absurd ht (by simp [ha]), h.inactive⟩

/-! ## Cleared and restarted frame registers (R49, R114) -/

/-- A leading mark may be counted in the cleared registers (R114, R115). -/
theorem decInv_idle (c : Config) (p : Half) : DecInv c { DecRegs.cleared with pulseTime := p } := by
  constructor <;> simp

theorem decInv_cleared (c : Config) : DecInv c .cleared := decInv_idle c 0

theorem decInv_restarted (c : Config) : DecInv c .restarted := decInv_idle c 1#16

theorem decState_eq_idle_iff (s : State) : s.decState = .idle ↔ s.dec.startBitDetected = false := by
  unfold State.decState
  cases s.dec.startBitDetected with
  | false => simp
  | true =>
    simp only [Bool.not_true, Bool.false_eq_true, if_false, reduceCtorEq, iff_false]
    split
    · simp
    · split <;> simp

theorem decState_eq_startBitSeen {s : State} (h : s.decState = .startBitSeen) :
    s.dec.startBitDetected = true ∧ s.dec.bitpos = bitposIdle := by
  unfold State.decState at h
  split at h
  · cases h
  · split at h
    · exact ⟨by simp_all, ‹_›⟩
    · split at h <;> cases h

theorem decState_eq_receiving {s : State}
    (h : s.decState = .receivingBits ∨ s.decState = .stopBitExpected) :
    s.dec.startBitDetected = true ∧ s.dec.bitpos ≠ bitposIdle := by
  unfold State.decState at h
  split at h
  · simp at h
  · split at h
    · simp at h
    · exact ⟨by simp_all, ‹_›⟩

theorem i7_of_dec_cleared {s : State} (h : s.dec = .cleared) : s.I7 :=
  fun _ => ⟨(decState_eq_idle_iff s).mpr (by simp [h]), by simp [h]⟩

/-! ## A frame that goes on -/

/-- A frame is being received: the invariants hold and there is a candidate (R21). -/
structure Receiving (c : Config) (r : DecRegs) : Prop extends DecInv c r where
  startBit : r.startBitDetected = true
  candidate : r.candValid = true

theorem Receiving.bitpos_nonneg {c : Config} {r : DecRegs} (h : Receiving c r) :
    0 ≤ r.bitpos.toInt := h.candValid_iff.mpr h.candidate

theorem DecInv.receiving {s : State} (h : DecInv s.cfg s.dec)
    (hs : s.decState = .receivingBits ∨ s.decState = .stopBitExpected) : Receiving s.cfg s.dec := by
  obtain ⟨hstart, hpos⟩ := decState_eq_receiving hs
  refine ⟨h, hstart, ?_⟩
  cases hv : s.dec.candValid with
  | true => rfl
  | false => exact absurd (h.noCandidate hv) hpos

/-- The registers that say which frame is received and how far. -/
abbrev SameFrame (r r' : DecRegs) : Prop :=
  r'.bitpos = r.bitpos ∧ r'.candValid = r.candValid ∧ r'.candIdx = r.candIdx ∧ r'.rpt = r.rpt

/-- Counters, `wait_space`, `man_mid` and `data` are free once the start bit is detected. -/
theorem DecInv.of_sameFrame {c : Config} {r r' : DecRegs} (h : DecInv c r) (hf : SameFrame r r')
    (hs : r'.startBitDetected = true) : DecInv c r' := by
  obtain ⟨hb, hv, hi, hr⟩ := hf
  constructor <;> simp only [hb, hv, hi, hr, hs, implies_true, Bool.true_eq_false, false_implies]
  · exact h.candValid_iff
  · exact h.candIdx_lt
  · exact h.bitpos_bounds
  · exact h.rpt
  · exact h.noCandidate
  · exact h.bitToCome

/-- From `r` on, the same frame is received in `r'`, and not less of it. -/
structure Advances (c : Config) (r r' : DecRegs) : Prop where
  receiving : Receiving c r'
  candIdx_eq : r'.candIdx = r.candIdx
  bitpos_le : r.bitpos.toInt ≤ r'.bitpos.toInt

theorem Advances.refl {c : Config} {r : DecRegs} (h : Receiving c r) : Advances c r r :=
  ⟨h, rfl, le_rfl⟩

theorem Advances.trans {c : Config} {r r₁ r₂ : DecRegs} (h : Advances c r r₁)
    (h' : Advances c r₁ r₂) : Advances c r r₂ :=
  ⟨h'.receiving, h'.candIdx_eq.trans h.candIdx_eq, h.bitpos_le.trans h'.bitpos_le⟩

/-- Only counters and position flags change after an advance. -/
theorem Advances.sameFrame {c : Config} {r r₁ r₂ : DecRegs} (h : Advances c r r₁)
    (hf : SameFrame r₁ r₂) (hs : r₂.startBitDetected = r₁.startBitDetected) : Advances c r r₂ := by
  have hs₂ : r₂.startBitDetected = true := hs.trans h.receiving.startBit
  obtain ⟨hb, hv, hi, -⟩ := id hf
  exact ⟨⟨h.receiving.of_sameFrame hf hs₂, hs₂, hv.trans h.receiving.candidate⟩,
    hi.trans h.candIdx_eq, by rw [hb]; exact h.bitpos_le⟩

/-- Counting bits does not wrap: a frame has at most 32 (R97 W3). -/
theorem bitpos_add_one_toInt {b : BitVec 7} {n : Nat} (hb : 0 ≤ b.toInt) (hn : n ≤ 32)
    (hlt : b.toInt < n) : (b + 1#7).toInt = b.toInt + 1 := by
  have := b.isLt
  simp only [BitVec.toInt_eq_toNat_cond, BitVec.toNat_add, BitVec.toNat_ofNat] at *
  omega

/-- Storing a bit keeps the frame going, unless it fills a frame that would then have no bit to come. -/
theorem Receiving.advances_storeBit {c : Config} {r : DecRegs} (hc : c.WF) (h : Receiving c r) (w : Bool)
    (hroom : (c.desc r.candIdx.toNat).isManchester = false →
      (c.desc r.candIdx.toNat).hasStop = false →
      (storeBit (c.desc r.candIdx.toNat) w r).1.bitpos.toInt ≠ (c.desc r.candIdx.toNat).nbits) :
    Advances c r (storeBit (c.desc r.candIdx.toNat) w r).1 := by
  obtain ⟨-, -, ⟨-, -, hpos, hmax⟩, -⟩ :=
    (Desc.wf_iff _).mp (hc.desc (h.candIdx_lt h.candidate))
  have hb := h.bitpos_nonneg
  rcases storeBit_cases (c.desc r.candIdx.toNat) w r with ⟨-, heq⟩ | ⟨hlt, heq⟩
  · rw [heq]
    exact .refl h
  · rw [heq] at hroom ⊢
    have hrpt : r.rpt = false := by
      cases hr : r.rpt with
      | false => rfl
      | true =>
        simp only [hr, if_true] at hlt
        omega
    simp only [hrpt, Bool.false_eq_true, if_false] at hlt
    have hinc := bitpos_add_one_toInt hb hmax hlt
    refine ⟨⟨⟨?_, h.candIdx_lt, fun _ => h.startBit, fun _ => ?_, fun hs => ?_, fun hr => ?_,
      fun hv => ?_, fun _ hm hs => ?_⟩, h.startBit, h.candidate⟩, rfl, ?_⟩
    · simp only [hinc, h.candidate, iff_true]
      omega
    · simp only [hinc, hrpt, Bool.false_eq_true, if_false]
      omega
    · exact absurd (h.startBit.symm.trans hs) (by decide)
    · exact absurd (hrpt.symm.trans hr) (by decide)
    · exact absurd (h.candidate.symm.trans hv) (by decide)
    · have := hroom hm hs
      simp only [hinc] at this ⊢
      omega
    · simp only [hinc]
      omega

/-! ## What a decoder tick makes of the frame registers -/

/-- The frame registers are cleared, restarted, or keep the invariants with no bit taken back. -/
inductive DecNext (c : Config) (r r' : DecRegs) : Prop where
  | cleared (h : r' = .cleared)
  | restarted (h : r' = .restarted)
  | goesOn (inv : DecInv c r') (le : r.bitpos.toInt ≤ r'.bitpos.toInt)

theorem DecNext.inv {c : Config} {r r' : DecRegs} (h : DecNext c r r') : DecInv c r' := by
  cases h with
  | cleared h => exact h ▸ decInv_cleared c
  | restarted h => exact h ▸ decInv_restarted c
  | goesOn h _ => exact h

theorem DecNext.bitpos {c : Config} {r r' : DecRegs} (h : DecNext c r r') :
    r.bitpos.toInt ≤ r'.bitpos.toInt ∨ r' = .cleared ∨ r' = .restarted := by
  cases h with
  | cleared h => exact .inr (.inl h)
  | restarted h => exact .inr (.inr h)
  | goesOn _ h => exact .inl h

theorem Advances.next {c : Config} {r r₁ r₂ : DecRegs} (h : Advances c r r₁)
    (hf : SameFrame r₁ r₂) (hs : r₂.startBitDetected = r₁.startBitDetected) : DecNext c r r₂ :=
  have h' := h.sameFrame hf hs
  .goesOn h'.receiving.toDecInv h'.bitpos_le

/-- A tick that keeps the frame and only counts. -/
theorem Receiving.next {c : Config} {r r' : DecRegs} (h : Receiving c r) (hf : SameFrame r r')
    (hs : r'.startBitDetected = r.startBitDetected) : DecNext c r r' :=
  (Advances.refl h).next hf hs

@[simp] theorem complete_dec (s : State) : (complete s).state.dec = .cleared := by
  rcases complete_cases s with ⟨-, -, h⟩ | ⟨-, -, h⟩ | ⟨-, h⟩ <;> rw [h] <;> rfl

/-! ### IDLE and the header -/

theorem idleMark_next {s : State} (h : DecInv s.cfg s.dec) :
    DecNext s.cfg s.dec (idleMark s).state.dec :=
  .goesOn ⟨h.candValid_iff, h.candIdx_lt, h.started, h.bitpos_bounds, h.idle, h.rpt, h.noCandidate,
    h.bitToCome⟩ le_rfl

theorem idleSpace_next {s : State} (h : DecInv s.cfg s.dec) :
    DecNext s.cfg s.dec (idleSpace s).state.dec := by
  unfold idleSpace
  split
  · exact .goesOn h le_rfl
  · split
    · exact .goesOn (h.of_sameFrame ⟨rfl, rfl, rfl, rfl⟩ rfl) le_rfl
    · exact .cleared rfl

theorem hdrSpaceTick_next {s : State} (h : DecInv s.cfg s.dec)
    (hs : s.dec.startBitDetected = true) : DecNext s.cfg s.dec (hdrSpaceTick s).state.dec := by
  unfold hdrSpaceTick
  simp only
  split
  · exact .goesOn (h.of_sameFrame ⟨rfl, rfl, rfl, rfl⟩ hs) le_rfl
  · exact .cleared rfl

theorem hdrScan_eq_some {p q : Half} {ds : List Desc} {j i : Nat} {k : HdrKind}
    (h : hdrScan p q ds j = some (i, k)) :
    ∃ n d, i = j + n ∧ ds[n]? = some d ∧ hdrKind d p q = some k := by
  induction ds generalizing j with
  | nil => cases h
  | cons d ds ih =>
    unfold hdrScan at h
    split at h
    · rename_i k' hk
      cases h
      exact ⟨0, d, rfl, rfl, hk⟩
    · obtain ⟨n, d', rfl, hn, hk⟩ := ih h
      exact ⟨n + 1, d', by omega, by simpa using hn, hk⟩

/-- A header match names a record of the table that fits the header (R121, R122). -/
theorem hdrMatch_eq_some {c : Config} {p q : Half} {i : Nat} {k : HdrKind}
    (h : hdrMatch c p q = some (i, k)) : i < c.nproto ∧ hdrKind (c.desc i) p q = some k := by
  obtain ⟨n, d, hi, hn, hk⟩ := hdrScan_eq_some h
  obtain rfl : i = n := by omega
  obtain ⟨hlt, -⟩ := List.getElem?_eq_some_iff.mp hn
  exact ⟨hlt, by simpa [Config.desc, hn] using hk⟩

theorem isManchester_of_shifted {d : Desc} {p q : Half} (h : hdrKind d p q = some .shifted) :
    d.isManchester = true := by
  unfold hdrKind at h
  split at h
  · cases h
  · split at h
    · simp_all
    · split at h <;> cases h

theorem hasRpt_of_rpt {d : Desc} {p q : Half} (h : hdrKind d p q = some .rpt) :
    d.hasRpt = true := by
  unfold hdrKind at h
  split at h
  · cases h
  · split at h
    · cases h
    · split at h
      · simp_all
      · cases h

/-- A header match starts a frame at bit 0 of a record of the table (R120). -/
theorem hdrEnter_receiving {c : Config} {r : DecRegs} {p q : Half} {i : Nat} {k : HdrKind}
    (hc : c.WF) (hs : r.startBitDetected = true) (hm : hdrMatch c p q = some (i, k)) :
    Receiving c (hdrEnter i k r) := by
  obtain ⟨hi, hk⟩ := hdrMatch_eq_some hm
  obtain ⟨-, -, ⟨-, -, hpos, -⟩, -⟩ := (Desc.wf_iff _).mp (hc.desc hi)
  have hidx : (hdrEnter i k r).candIdx.toNat = i := hc.index_fits hi
  have h0 : (hdrEnter i k r).bitpos.toInt = 0 := rfl
  refine ⟨⟨?_, fun _ => by rwa [hidx], fun _ => hs, fun _ => ?_, fun hf => ?_, fun hr => ?_,
    fun hv => ?_, fun _ _ _ => ?_⟩, hs, rfl⟩
  · simp [hdrEnter]
  · rw [h0]
    omega
  · exact absurd (hs.symm.trans hf) (by decide)
  · obtain rfl : k = .rpt := of_decide_eq_true hr
    exact ⟨by rw [hidx]; exact hasRpt_of_rpt hk, h0⟩
  · cases hv
  · rw [h0, hidx]
    omega

theorem hdrMarkTick_next {s : State} (hc : s.cfg.WF) (hs : s.decState = .startBitSeen) :
    DecNext s.cfg s.dec (hdrMarkTick s).state.dec := by
  obtain ⟨hstart, hidle⟩ := decState_eq_startBitSeen hs
  have hbit : s.dec.bitpos.toInt = -1 := by rw [hidle]; exact bitposIdle_toInt
  unfold hdrMarkTick
  split
  · exact .restarted rfl
  · rename_i i k hm
    have hrec := hdrEnter_receiving hc hstart hm
    have hle : s.dec.bitpos.toInt ≤ (hdrEnter i k s.dec).bitpos.toInt := by
      rw [hbit]
      exact (by decide : (-1 : Int) ≤ 0)
    simp only
    split
    · rename_i hk
      subst hk
      obtain ⟨hi, hkind⟩ := hdrMatch_eq_some hm
      have hidx : (hdrEnter i .shifted s.dec).candIdx.toNat = i := hc.index_fits hi
      have hadv := hrec.advances_storeBit hc false (by simp [hidx, isManchester_of_shifted hkind])
      rw [hidx] at hadv
      have hadv' := hadv.sameFrame (r₂ := { (storeBit (s.cfg.desc i) false
        (hdrEnter i .shifted s.dec)).1 with manMid := true }) ⟨rfl, rfl, rfl, rfl⟩ rfl
      exact .goesOn hadv'.receiving.toDecInv (hle.trans hadv'.bitpos_le)
    · exact .goesOn hrec.toDecInv hle

/-! ### Bits and the stop mark -/

theorem bitTick_next {s : State} (m : Bool) (hc : s.cfg.WF) (h : Receiving s.cfg s.dec) :
    DecNext s.cfg s.dec (bitTick m s.cand s).state.dec := by
  unfold bitTick
  split
  · split
    · unfold bitSpaceEnd
      split
      · exact .restarted rfl
      · rename_i w _
        simp only
        split
        · exact .restarted rfl
        · rename_i hfull
          refine (h.advances_storeBit hc w fun _ hstop hn => hfull ?_).next ⟨rfl, rfl, rfl, rfl⟩ rfl
          simp only [Bool.and_eq_true, decide_eq_true_eq, Bool.not_eq_true']
          exact ⟨hn, hstop⟩
    · unfold bitSpaceOn
      simp only
      split
      · exact h.next ⟨rfl, rfl, rfl, rfl⟩ rfl
      · split
        · exact .cleared (complete_dec _)
        · exact .cleared rfl
  · split
    · unfold bitMarkOn
      simp only
      split
      · exact h.next ⟨rfl, rfl, rfl, rfl⟩ rfl
      · exact .cleared rfl
    · unfold bitMarkEnd
      split
      · exact h.next ⟨rfl, rfl, rfl, rfl⟩ rfl
      · exact .cleared rfl

theorem stopTick_next {s : State} (m : Bool) (h : Receiving s.cfg s.dec) :
    DecNext s.cfg s.dec (stopTick m s.cand s).state.dec := by
  unfold stopTick
  split
  · simp only
    split
    · exact h.next ⟨rfl, rfl, rfl, rfl⟩ rfl
    · exact .cleared rfl
  · split
    · exact .cleared (complete_dec _)
    · exact .cleared rfl

/-! ### Manchester pairs -/

theorem storeMid_stores {d : Desc} {w : Bool} {r : DecRegs} {x : DecRegs × Bool}
    (h : storeMid d w r = some x) : ∃ w, x.1 = (storeBit d w r).1 :=
  ⟨w, by rw [(storeMid_eq_some h).2]⟩

/-- The mark of a pair stores a bit or leaves the registers (R166). -/
theorem manMark_eq_some {d : Desc} {r : DecRegs} {x : DecRegs × Bool} (h : manMark d r = some x) :
    x.1 = r ∨ ∃ w, x.1 = (storeBit d w r).1 := by
  unfold manMark at h
  split at h
  · split at h
    · exact .inr (storeMid_stores h)
    · cases h
  · split at h
    · cases h
      exact .inl rfl
    · split at h
      · exact .inr (storeMid_stores h)
      · cases h

/-- The space of a pair stores a bit or leaves the registers (R166). -/
theorem manSpace_eq_some {d : Desc} {mid : Bool} {r : DecRegs} {x : DecRegs × Bool}
    (h : manSpace d mid r = some x) : x.1 = r ∨ ∃ w, x.1 = (storeBit d w r).1 := by
  unfold manSpace at h
  split at h
  · split at h
    · cases h
      exact .inl rfl
    · split at h
      · exact .inr (storeMid_stores h)
      · cases h
  · split at h
    · exact .inr (storeMid_stores h)
    · cases h

/-- Half a pair of a Manchester record keeps the frame going. -/
theorem Advances.half {c : Config} {r r₁ r₂ : DecRegs} (hc : c.WF)
    (hman : (c.desc r.candIdx.toNat).isManchester = true) (h : Advances c r r₁)
    (hx : r₂ = r₁ ∨ ∃ w, r₂ = (storeBit (c.desc r.candIdx.toNat) w r₁).1) : Advances c r r₂ := by
  rcases hx with rfl | ⟨w, rfl⟩
  · exact h
  · have hadv := h.receiving.advances_storeBit hc w (by simp [h.candIdx_eq, hman])
    rw [h.candIdx_eq] at hadv
    exact h.trans hadv

theorem manPair_next {s : State} (hc : s.cfg.WF) (h : Receiving s.cfg s.dec)
    (hman : s.cand.isManchester = true) : DecNext s.cfg s.dec (manPair s.cand s).state.dec := by
  unfold manPair
  split
  · exact .restarted rfl
  · rename_i r mid hmark
    have h₁ := (Advances.refl h).half hc hman (manMark_eq_some hmark)
    split
    · exact .restarted rfl
    · rename_i r' mid' hspace
      have h₂ := h₁.half hc hman (manSpace_eq_some hspace)
      exact h₂.next ⟨rfl, rfl, rfl, rfl⟩ rfl

theorem manSpaceOn_next {s : State} (h : Receiving s.cfg s.dec) :
    DecNext s.cfg s.dec (manSpaceOn s.cand s).state.dec := by
  unfold manSpaceOn
  simp only
  split
  · exact h.next ⟨rfl, rfl, rfl, rfl⟩ rfl
  · unfold manPairVirtual
    split
    · exact .cleared rfl
    · split
      · exact .cleared (complete_dec _)
      · exact .cleared rfl

theorem manTick_next {s : State} (m : Bool) (hc : s.cfg.WF) (h : Receiving s.cfg s.dec)
    (hman : s.cand.isManchester = true) : DecNext s.cfg s.dec (manTick m s.cand s).state.dec := by
  unfold manTick
  split
  · split
    · exact manPair_next hc h hman
    · exact manSpaceOn_next h
  · split
    · unfold manMarkOn
      generalize (if s.dec.manMid then 2 * s.cand.p1Pulse.max else s.cand.p1Pulse.max) = bound
      simp only
      split
      · exact h.next ⟨rfl, rfl, rfl, rfl⟩ rfl
      · exact .cleared rfl
    · unfold manMarkEnd
      split
      · exact h.next ⟨rfl, rfl, rfl, rfl⟩ rfl
      · exact .cleared rfl

/-- A decoder tick outside hold clears or restarts the frame, or keeps it going (R50, R110). -/
theorem decSample_next {s : State} (m : Bool) (hc : s.cfg.WF) (h : DecInv s.cfg s.dec) :
    DecNext s.cfg s.dec (decSample m s).state.dec := by
  unfold decSample
  split
  · split
    · exact idleMark_next h
    · exact idleSpace_next h
  · rename_i hs
    split
    · exact hdrMarkTick_next hc hs
    · exact hdrSpaceTick_next h (decState_eq_startBitSeen hs).1
  · rename_i hs
    split
    · exact manTick_next m hc (h.receiving (.inl hs)) ‹_›
    · exact bitTick_next m hc (h.receiving (.inl hs))
  · rename_i hs
    split
    · exact manTick_next m hc (h.receiving (.inr hs)) ‹_›
    · exact stopTick_next m (h.receiving (.inr hs))

theorem decTick_next {s : State} (b : Bool) (hc : s.cfg.WF) (h : DecInv s.cfg s.dec) :
    DecNext s.cfg s.dec (decTick b s).state.dec := by
  rcases decTick_cases b s with ⟨-, heq⟩ | ⟨-, heq, -⟩ <;> rw [heq]
  · exact .goesOn h le_rfl
  · exact decSample_next (s := countRep s) _ hc h

/-! ## The encoder's invariants (I1, I2, I10, J2, J3) -/

theorem exp_pos_of_inRange {t : Timing} (h : t.InRange) : 1 ≤ t.exp.toNat := by
  have hmin := h.1
  unfold Timing.min at hmin
  omega

theorem one_le_toNat {n : Nat} {v : BitVec n} (h : v ≠ 0#n) : 1 ≤ v.toNat := by
  have := mt BitVec.eq_of_toNat_eq h
  simp only [BitVec.toNat_zero] at this
  omega

theorem Sending.drivePin {c : Config} {e : EncRegs} (h : Sending c e) (k : Carrier) (prev : Bool) :
    Sending c (drivePin k prev e) := by
  obtain ⟨p, hp⟩ := drivePin_frame k prev e
  rw [hp]
  exact ⟨⟨h.active, h.sub_pos, h.desc_lt, h.hasRpt, h.bitIdx_lt⟩, h.dur_pos⟩

theorem drivePin_of_not_active {k : Carrier} {prev : Bool} {e : EncRegs} (h : e.active = false) :
    drivePin k prev e = { e with pinOn := false } := by
  simp [drivePin, h]

/-- A segment that is not a data bit begins with `level` and a positive duration. -/
theorem InSend.sending_begin {c : Config} {e : EncRegs} (h : InSend c e) {p : Phase} {l : Bool} {t : Half}
    (hA : p ≠ .bitA) (hB : p ≠ .bitB) (ht : 1 ≤ t.toNat) :
    Sending c { e with phase := p, level := l, dur := t } :=
  ⟨⟨h.active, h.sub_pos, h.desc_lt, h.hasRpt, fun hp => absurd hp (not_or.mpr ⟨hA, hB⟩)⟩, ht⟩

/-- A segment begins in the phase the send is in: half of a data bit (R211). -/
theorem InSend.segment {c : Config} {e : EncRegs} (h : InSend c e) {l : Bool} {t : Half}
    (ht : 1 ≤ t.toNat) : Sending c { e with level := l, dur := t } :=
  ⟨⟨h.active, h.sub_pos, h.desc_lt, h.hasRpt, h.bitIdx_lt⟩, ht⟩

/-- The send turns to a data bit of the frame (R210, R213, R214). -/
theorem InSend.toBit {c : Config} {e : EncRegs} (h : InSend c e) (p : Phase) {k : BitVec 5}
    (hk : k.toNat < (c.desc e.desc.toNat).nbits) : InSend c { e with phase := p, bitIdx := k } :=
  ⟨h.active, h.sub_pos, h.desc_lt, h.hasRpt, fun _ => hk⟩

theorem InSend.sending_loadBitA {c : Config} {e : EncRegs} (h : InSend c e) {d : Desc}
    (hd : d.W5) : Sending c (loadBitA d e) := by
  obtain ⟨-, -, hpulse1, -, hpulse0, -⟩ := hd
  unfold loadBitA
  simp only
  split
  · exact h.segment (exp_pos_of_inRange hpulse1)
  · refine h.segment ?_
    split
    · exact exp_pos_of_inRange hpulse1
    · exact exp_pos_of_inRange hpulse0

theorem InSend.sending_loadBitB {c : Config} {e : EncRegs} (h : InSend c e) {d : Desc}
    (hd : d.W5) : Sending c (loadBitB d e) := by
  obtain ⟨-, -, hpulse1, hpause1, -, hpause0, -⟩ := hd
  unfold loadBitB
  simp only
  split
  · exact h.segment (exp_pos_of_inRange hpulse1)
  · refine h.segment ?_
    split
    · exact exp_pos_of_inRange hpause1
    · exact exp_pos_of_inRange hpause0

/-- A header mark begins, of a full frame or of a repeat code (R208, R216). -/
theorem InSend.sending_beginHdrMark {c : Config} {e : EncRegs} (h : InSend c e)
    (hd : (c.desc e.desc.toNat).W5) : Sending c (beginHdrMark (c.desc e.desc.toNat) e) := by
  obtain ⟨hmark, -, -, -, -, -, hrpt⟩ := hd
  refine h.sending_begin (by decide) (by decide) ?_
  split
  · exact exp_pos_of_inRange (hrpt (h.hasRpt ‹_›)).1
  · exact exp_pos_of_inRange hmark

/-- A header space begins, of a full frame or of a repeat code (R209). -/
theorem InSend.sending_endHdrMark {c : Config} {e : EncRegs} (h : InSend c e)
    (hd : (c.desc e.desc.toNat).W5) : Sending c (endHdrMark (c.desc e.desc.toNat) e) := by
  obtain ⟨-, hspace, -, -, -, -, hrpt⟩ := hd
  refine h.sending_begin (by decide) (by decide) ?_
  split
  · exact exp_pos_of_inRange (hrpt (h.hasRpt ‹_›)).2
  · exact exp_pos_of_inRange hspace

theorem InSend.sending_beginStopMark {c : Config} {e : EncRegs} (h : InSend c e) {d : Desc} (hd : d.W5) :
    Sending c (beginStopMark d e) := by
  obtain ⟨-, -, -, -, hstop, -⟩ := hd
  exact h.sending_begin (by decide) (by decide) (exp_pos_of_inRange hstop)

theorem InSend.sending_beginGap {c : Config} {e : EncRegs} (h : InSend c e) {d : Desc} (hd : d.W10) :
    Sending c (beginGap d e) :=
  h.sending_begin (by decide) (by decide) hd.1

/-- The next segment of a send begins, or the send is over (R207 to R217). -/
theorem advance_cases {c : Config} {e : EncRegs} (hc : c.WF) (h : InSend c e) :
    ((advance (c.desc e.desc.toNat) e).2 = false ∧
      Sending c (advance (c.desc e.desc.toNat) e).1) ∨
    ((advance (c.desc e.desc.toNat) e).2 = true ∧
      (advance (c.desc e.desc.toNat) e).1.active = false ∧
      (advance (c.desc e.desc.toNat) e).1.level = false) := by
  obtain ⟨-, -, ⟨-, -, hpos, -⟩, -, h5, -, -, -, -, h10⟩ :=
    (Desc.wf_iff _).mp (hc.desc h.desc_lt)
  unfold advance
  split
  · exact .inl ⟨rfl, h.sending_beginHdrMark h5⟩
  · exact .inl ⟨rfl, h.sending_endHdrMark h5⟩
  · refine .inl ⟨rfl, ?_⟩
    unfold endHdrSpace
    split
    · exact h.sending_beginStopMark h5
    · exact (h.toBit .bitA (k := 0#5) hpos).sending_loadBitA h5
  · rename_i hA
    exact .inl ⟨rfl, (h.toBit .bitB (h.bitIdx_lt (.inl hA))).sending_loadBitB h5⟩
  · refine .inl ⟨rfl, ?_⟩
    unfold endBitB
    split
    · rename_i hmore
      have hnext : (e.bitIdx + 1#5).toNat < (c.desc e.desc.toNat).nbits := by
        rw [BitVec.toNat_add]
        exact (Nat.mod_le _ _).trans_lt hmore
      exact (h.toBit .bitA hnext).sending_loadBitA h5
    · split
      · exact h.sending_beginStopMark h5
      · exact h.sending_beginGap h10
  · exact .inl ⟨rfl, h.sending_beginGap h10⟩
  · split
    · exact .inr ⟨rfl, rfl, rfl⟩
    · exact .inl ⟨rfl, InSend.sending_beginHdrMark
        (e := { e with repLeft := e.repLeft - 1#4, rptFrame := (c.desc e.desc.toNat).hasRpt })
        ⟨h.active, h.sub_pos, h.desc_lt, id, h.bitIdx_lt⟩ h5⟩

/-- A tick of a send counts and keeps the send in order, or ends it (R206). -/
theorem encCount_cases {c : Config} {e : EncRegs} (hc : c.WF) (h : Sending c e) :
    ((encCount (c.desc e.desc.toNat) e).2 = false ∧
      Sending c (encCount (c.desc e.desc.toNat) e).1) ∨
    ((encCount (c.desc e.desc.toNat) e).2 = true ∧
      (encCount (c.desc e.desc.toNat) e).1.active = false ∧
      (encCount (c.desc e.desc.toNat) e).1.level = false) := by
  obtain ⟨-, -, -, ⟨hsub, -⟩, -⟩ := (Desc.wf_iff _).mp (hc.desc h.desc_lt)
  unfold encCount
  simp only
  split
  · have hin : InSend c { e with sub := (c.desc e.desc.toNat).nSub, dur := e.dur - 1#16 } :=
      ⟨h.active, hsub, h.desc_lt, h.hasRpt, h.bitIdx_lt⟩
    split
    · exact advance_cases hc hin
    · exact .inl ⟨rfl, hin, one_le_toNat ‹_›⟩
  · exact .inl ⟨rfl, ⟨h.active, one_le_toNat ‹_›, h.desc_lt, h.hasRpt, h.bitIdx_lt⟩, h.dur_pos⟩

/-- An accepted `SEND` starts with one tick to the first segment (R200). -/
theorem startSend_sending {c : Config} {i : Nat} (hc : c.WF) (hi : i < c.nproto) (a : BitVec 16)
    (cmd : BitVec 32) (n : BitVec 4) : Sending c (startSend (c.desc i) i a cmd n) := by
  refine ⟨⟨rfl, le_rfl, ?_, nofun, nofun⟩, le_rfl⟩
  show (BitVec.ofNat 8 i).toNat < c.nproto
  rwa [hc.index_fits hi]

theorem encInv_of_sending {c : Config} {e : EncRegs} (h : Sending c e) : EncInv c .tx e :=
  ⟨fun _ => ⟨rfl, h⟩, fun ha => absurd (h.active.symm.trans ha) (by decide)⟩

theorem encInv_of_idle {c : Config} {m : Mode} {e : EncRegs} (ha : e.active = false)
    (hp : e.pinOn = false) (hl : e.level = false) : EncInv c m e :=
  ⟨fun ht => absurd (ha.symm.trans ht) (by decide), fun _ => ⟨hp, hl⟩⟩

theorem encTick_encInv {s : State} (hc : s.cfg.WF) (h : EncInv s.cfg s.arb.mode s.enc) :
    EncInv s.cfg (encTick s).state.arb.mode (encTick s).state.enc := by
  rcases encTick_cases s with ⟨ha, heq⟩ | ⟨r, ha, rfl, hgo, heq⟩ | ⟨r, ha, rfl, hend, heq⟩ <;>
    rw [heq]
  · exact encInv_of_idle ha rfl (h.inactive ha).2
  · obtain ⟨hm, hs⟩ := h.sending ha
    rcases encCount_cases hc hs with ⟨-, hs'⟩ | ⟨hend, -⟩
    · simp only [quiet_state, hm]
      exact encInv_of_sending (hs'.drivePin _ _)
    · exact absurd (hgo.symm.trans hend) (by decide)
  · rcases encCount_cases hc (h.sending ha).2 with ⟨hgo, -⟩ | ⟨-, ha', hl⟩
    · exact absurd (hgo.symm.trans hend) (by decide)
    · simp only [switchToRx_enc, drivePin_of_not_active ha']
      exact encInv_of_idle ha' rfl hl

/-! ## What each operation of the arbiter and the encoder can do (R200, R243 to R246) -/

theorem exec_send_cases {p : BitVec 8} {a : BitVec 16} {c : BitVec 32} {n : BitVec 4} {s t : State}
    (h : exec (.send p a c n) s = .next t) :
    (s.arb.mode = .tx ∧ ∃ st, t = refuse st s) ∨
    (s.arb.mode = .rx ∧ s.cfg.findProto p = none ∧ t = refuse .refusedProto s) ∨
    (∃ i, s.arb.mode = .rx ∧ s.cfg.findProto p = some i ∧ t = acceptSend i a c n s) := by
  cases h
  cases hm : s.arb.mode with
  | tx => exact .inl ⟨rfl, _, rfl⟩
  | rx =>
    cases hp : s.cfg.findProto p with
    | none => exact .inr (.inl ⟨rfl, rfl, rfl⟩)
    | some i => exact .inr (.inr ⟨i, rfl, rfl, rfl⟩)

theorem exec_cfgTx_cases {p : BitVec 8} {s t : State} (h : exec (.cfgTx p) s = .next t) :
    (s.arb.mode = .tx ∧ ∃ st, t = refuse st s) ∨
    (s.arb.mode = .rx ∧ s.cfg.findProto p = none ∧ t = refuse .refusedProto s) ∨
    (∃ i r, s.arb.mode = .rx ∧ s.cfg.findProto p = some i ∧ t = respond r (switchToTx i s)) := by
  cases h
  cases hm : s.arb.mode with
  | tx => exact .inl ⟨rfl, _, rfl⟩
  | rx =>
    cases hp : s.cfg.findProto p with
    | none => exact .inr (.inl ⟨rfl, rfl, rfl⟩)
    | some i => exact .inr (.inr ⟨i, _, rfl, rfl, rfl⟩)

theorem exec_cfgRx_cases {s t : State} (h : exec .cfgRx s = .next t) :
    (s.enc.active = true ∧ t = refuse .refusedBusy s) ∨
    (s.enc.active = false ∧ t = respondOk (switchToRx (Config.tcfgOf s.cfg.fRxCode) s)) := by
  cases h
  cases ha : s.enc.active with
  | true => exact .inl ⟨rfl, rfl⟩
  | false => exact .inr ⟨rfl, rfl⟩

theorem exec_restore_cases {v : BitVec 32} {s t : State} (h : exec (.restore v) s = .next t) :
    (s.enc.active = true ∧ t = refuse .refusedBusy s) ∨
    (s.enc.active = false ∧ t = respondOk (switchToRx v s)) := by
  cases h
  cases ha : s.enc.active with
  | true => exact .inl ⟨rfl, rfl⟩
  | false => exact .inr ⟨rfl, rfl⟩

/-- A `TICK` runs the encoder or the decoder, by `mode` (R240). -/
theorem exec_tick_cases {b : Bool} {s t : State} (h : exec (.tick b) s = .next t) :
    (s.arb.mode = .tx ∧ t = (encTick s).finish) ∨
    (s.arb.mode = .rx ∧ t = (decTick b s).finish) := by
  obtain ⟨-, rfl⟩ := execTick_next h
  unfold tickOut
  cases s.arb.mode with
  | tx => exact .inl ⟨rfl, rfl⟩
  | rx => exact .inr ⟨rfl, rfl⟩

/-- The operations that touch neither decoder, encoder nor arbiter (R260 to R264). -/
inductive HostOp : Instr → Prop where
  | nop : HostOp .nop
  | getResult : HostOp .getResult
  | rdStatus : HostOp .rdStatus
  | setCb (e : Bool) : HostOp (.setCb e)

/-- A host operation writes `cb_en`, the response, and `ready` to clear it only. -/
theorem exec_host_cases {i : Instr} {s t : State} (hi : HostOp i)
    (h : exec i s = .next t) :
    ∃ rdy e r, (rdy = true → s.ready = true) ∧
      t = { s with ready := rdy, cbEn := e, resp := some r } := by
  cases hi with
  | nop => cases h; exact ⟨s.ready, s.cbEn, _, id, rfl⟩
  | getResult =>
    cases h
    split
    · exact ⟨false, s.cbEn, _, nofun, rfl⟩
    · exact ⟨s.ready, s.cbEn, _, id, rfl⟩
  | rdStatus => cases h; exact ⟨s.ready, s.cbEn, _, id, rfl⟩
  | setCb e => cases h; exact ⟨s.ready, e, _, id, rfl⟩

/-! ## Every step keeps the invariants (R51) -/

theorem i7_iff (s : State) :
    s.I7 ↔ (s.ready = true → s.dec.startBitDetected = false ∧ s.dec.pulseTime = 0#16) := by
  simp only [State.I7, decState_eq_idle_iff]

/-- A record has the `REP` flag or no flag (R182, R185, R186). -/
theorem complete_i9 {s : State} (h : s.I9) : (complete s).state.I9 := by
  rcases complete_cases s with ⟨-, -, heq⟩ | ⟨-, -, heq⟩ | ⟨-, heq⟩ <;> rw [heq]
  · exact h
  · exact (by decide : (1#4).extractLsb' 1 3 = 0#3)
  · change (if _ then 1#4 else 0#4).extractLsb' 1 3 = 0#3
    split <;> decide

theorem decTick_inv {s : State} (b : Bool) (hc : s.cfg.WF) (h : s.Inv) :
    (decTick b s).state.Inv := by
  obtain ⟨hd, he, h7, h9⟩ := (inv_iff s).mp h
  obtain ⟨hcfg, henc, harb, -⟩ := decTick_frame b s
  have hd' := (decTick_next b hc hd).inv
  refine (inv_iff _).mpr ⟨by rwa [hcfg], by rwa [hcfg, henc, harb], ?_⟩
  rcases decTick_cases b s with ⟨-, heq⟩ | ⟨hr, -, ⟨r, heq⟩ | ⟨r, heq⟩⟩ <;> rw [heq]
  · exact ⟨h7, h9⟩
  · exact ⟨fun ht => absurd (hr.symm.trans ht) (by decide), h9⟩
  · exact ⟨i7_of_dec_cleared (complete_dec _), complete_i9 h9⟩

theorem encTick_inv {s : State} (hc : s.cfg.WF) (h : s.Inv) : (encTick s).state.Inv := by
  obtain ⟨hd, he, h7, h9⟩ := (inv_iff s).mp h
  obtain ⟨hcfg, hdec, -, hres, hready, -⟩ := encTick_frame s
  have he' := encTick_encInv hc he
  refine (inv_iff _).mpr ⟨by rwa [hcfg, hdec], by rwa [hcfg], ?_, by rwa [State.I9, hres]⟩
  rwa [i7_iff, hready, hdec, ← i7_iff]

/-- Taking the result, the callback enable and the response do not touch what the invariants say. -/
theorem inv_host {s : State} (h : s.Inv) {rdy e : Bool} {r : Option Word}
    (hr : rdy = true → s.ready = true) :
    State.Inv { s with ready := rdy, cbEn := e, resp := r } := by
  obtain ⟨hd, he, h7, h9⟩ := (inv_iff s).mp h
  exact (inv_iff _).mpr ⟨hd, he, fun ht => h7 (hr ht), h9⟩

theorem inv_refuse {s : State} (h : s.Inv) (st : Status) : (refuse st s).Inv := inv_host h id

theorem inv_switchToRx {s : State} (h : s.Inv) (ha : s.enc.active = false) (v : TimerConfig) :
    (switchToRx v s).Inv := by
  obtain ⟨hd, he, h7, h9⟩ := (inv_iff s).mp h
  exact (inv_iff _).mpr ⟨hd, he.of_not_active ha, h7, h9⟩

theorem inv_switchToTx {s : State} (h : s.Inv) (hm : s.arb.mode = .rx) (i : Nat) :
    (switchToTx i s).Inv := by
  obtain ⟨-, he, -, h9⟩ := (inv_iff s).mp h
  rw [hm] at he
  exact (inv_iff _).mpr ⟨decInv_cleared _, he.of_not_active he.not_active_of_rx,
    i7_of_dec_cleared rfl, h9⟩

theorem inv_acceptSend {s : State} (hc : s.cfg.WF) (h : s.Inv) {i : Nat} (hi : i < s.cfg.nproto)
    (a : BitVec 16) (c : BitVec 32) (n : BitVec 4) : (acceptSend i a c n s).Inv := by
  obtain ⟨-, -, -, h9⟩ := (inv_iff s).mp h
  exact (inv_iff _).mpr ⟨decInv_cleared _, encInv_of_sending (startSend_sending hc hi a c n),
    i7_of_dec_cleared rfl, h9⟩

theorem exec_keeps_inv {i : Instr} {s t : State} (hs : s.Good) (h : exec i s = .next t) :
    t.Inv := by
  obtain ⟨hc, hinv⟩ := hs
  have host (hi : HostOp i) : t.Inv := by
    obtain ⟨rdy, e, r, hr, rfl⟩ := exec_host_cases hi h
    exact inv_host hinv hr
  cases i with
  | nop | getResult | rdStatus | setCb _ => exact host (by constructor)
  | tick b =>
    rcases exec_tick_cases h with ⟨-, rfl⟩ | ⟨-, rfl⟩
    · exact inv_host (encTick_inv hc hinv) id
    · exact inv_host (decTick_inv b hc hinv) id
  | send p a c n =>
    rcases exec_send_cases h with ⟨-, st, rfl⟩ | ⟨-, -, rfl⟩ | ⟨j, -, hp, rfl⟩
    · exact inv_refuse hinv st
    · exact inv_refuse hinv _
    · exact inv_acceptSend hc hinv (Config.findProto_some hp).1 a c n
  | cfgTx p =>
    rcases exec_cfgTx_cases h with ⟨-, st, rfl⟩ | ⟨-, -, rfl⟩ | ⟨j, r, hm, -, rfl⟩
    · exact inv_refuse hinv st
    · exact inv_refuse hinv _
    · exact inv_host (inv_switchToTx hinv hm j) id
  | cfgRx =>
    rcases exec_cfgRx_cases h with ⟨-, rfl⟩ | ⟨ha, rfl⟩
    · exact inv_refuse hinv _
    · exact inv_host (inv_switchToRx hinv ha _) id
  | restore v =>
    rcases exec_restore_cases h with ⟨-, rfl⟩ | ⟨ha, rfl⟩
    · exact inv_refuse hinv _
    · exact inv_host (inv_switchToRx hinv ha v) id

/-- The reset values meet the invariants, whatever inputs wait (R52). -/
theorem inv_resetWith (c : Config) (rest : List Input) :
    State.Inv { State.resetWith c with input := rest } :=
  (inv_iff _).mpr ⟨decInv_cleared c, encInv_of_idle rfl rfl rfl, i7_of_dec_cleared rfl,
    (by decide : (0#4).extractLsb' 1 3 = 0#3)⟩

/-- Settles O55: the reset state has cleared frame registers, an idle encoder and no result. -/
theorem invAtReset : Obligations.InvAtReset :=
  ⟨fun c => inv_resetWith c [], inv_resetWith Config.build []⟩

/-- An input taken is a reset, an operation run, an illegal word answered, or nothing (R65 to R67). -/
theorem step_cases {s t : State} (h : step s = .next t) :
    t = s ∨ (∃ rest, t = applyReset rest s) ∨ (∃ rest, t = illegalWord { s with input := rest }) ∨
    ∃ i p rest, exec i { s with tickPending := p, input := rest } = .next t := by
  unfold step stepInput at h
  split at h
  · cases h
    exact .inr (.inl ⟨_, rfl⟩)
  · exact .inr (.inr (.inr ⟨_, none, s.input, h⟩))
  · unfold runWord at h
    split at h
    · exact .inr (.inr (.inr ⟨_, s.tickPending, _, h⟩))
    · cases h
      exact .inr (.inr (.inl ⟨_, rfl⟩))
  · cases h
    exact .inl rfl

/-- Settles O56: the operations keep the invariants group by group, and reset establishes them anew. -/
theorem stepKeepsInv : Obligations.StepKeepsInv := by
  intro s t hc hinv h
  rcases step_cases h with rfl | ⟨rest, rfl⟩ | ⟨rest, rfl⟩ | ⟨i, p, rest, hexec⟩
  · exact ⟨hinv, rfl⟩
  · exact ⟨inv_resetWith s.cfg rest, rfl⟩
  · exact ⟨inv_refuse hinv .illegal, rfl⟩
  · obtain ⟨hcfg, -⟩ := exec_frame hexec
    refine ⟨exec_keeps_inv ?_ hexec, hcfg⟩
    exact ⟨hc, hinv⟩

/-! ## A good state never stops (R300) -/

theorem encFault_eq_none {s : State} (h : EncInv s.cfg s.arb.mode s.enc) : encFault s = none := by
  unfold encFault
  cases ha : s.enc.active with
  | false => rfl
  | true =>
    obtain ⟨-, hs⟩ := h.sending ha
    have hsub : s.enc.sub ≠ 0#8 := fun h0 => absurd hs.sub_pos (by simp [h0])
    have hdur : s.enc.dur ≠ 0#16 := fun h0 => absurd hs.dur_pos (by simp [h0])
    rw [if_neg (by simp), if_neg (not_le.mpr hs.desc_lt), if_neg (by simp [hsub, hdur]),
      if_neg (by simpa using fun _ _ hA => hs.bitIdx_lt (.inl hA))]

theorem decFault_eq_none {s : State} (h : DecInv s.cfg s.dec) : decFault s = none := by
  unfold decFault
  split
  · rfl
  · rename_i hrec
    have hpos : s.dec.bitpos ≠ bitposIdle := fun h0 => hrec (by simp [h0])
    have hv : s.dec.candValid = true := by
      cases hv : s.dec.candValid with
      | true => rfl
      | false => exact absurd (h.noCandidate hv) hpos
    rw [if_neg (not_lt.mpr (h.candValid_iff.mpr hv)), if_neg (not_le.mpr (h.candIdx_lt hv))]

theorem exec_of_good {s : State} (h : s.Good) (i : Instr) : ∃ t, exec i s = .next t := by
  cases i with
  | tick b =>
    obtain ⟨hd, he, -⟩ := (inv_iff s).mp h.2
    have hfault : tickFault s = none := by
      unfold tickFault
      split
      · exact encFault_eq_none he
      · exact decFault_eq_none hd
    exact ⟨_, by rw [exec, execTick, hfault]⟩
  | _ => exact exec_completes nofun

/-! ## The bit position (R50) -/

theorem dec_of_encTick (s : State) : (encTick s).finish.dec = s.dec := (encTick_frame s).2.1

/-- Settles O50: only decoder ticks count bits, and the arbiter's switches to send clear the frame. -/
theorem bitPositionMonotone : Obligations.BitPositionMonotone := by
  intro i s hs
  obtain ⟨t, h⟩ := exec_of_good hs i
  refine ⟨t, h, ?_⟩
  have host (hi : HostOp i) :
      s.dec.bitpos.toInt ≤ t.dec.bitpos.toInt := by
    obtain ⟨rdy, e, r, -, rfl⟩ := exec_host_cases hi h
    exact le_rfl
  cases i with
  | nop | getResult | rdStatus | setCb _ => exact .inl (host (by constructor))
  | tick b =>
    rcases exec_tick_cases h with ⟨-, rfl⟩ | ⟨-, rfl⟩
    · exact .inl (by rw [dec_of_encTick])
    · exact (decTick_next b hs.1 ((inv_iff s).mp hs.2).1).bitpos
  | send p a c n =>
    rcases exec_send_cases h with ⟨-, st, rfl⟩ | ⟨-, -, rfl⟩ | ⟨j, -, -, rfl⟩
    · exact .inl le_rfl
    · exact .inl le_rfl
    · exact .inr (.inl rfl)
  | cfgTx p =>
    rcases exec_cfgTx_cases h with ⟨-, st, rfl⟩ | ⟨-, -, rfl⟩ | ⟨j, r, -, -, rfl⟩
    · exact .inl le_rfl
    · exact .inl le_rfl
    · exact .inr (.inl rfl)
  | cfgRx => rcases exec_cfgRx_cases h with ⟨-, rfl⟩ | ⟨-, rfl⟩ <;> exact .inl le_rfl
  | restore v => rcases exec_restore_cases h with ⟨-, rfl⟩ | ⟨-, rfl⟩ <;> exact .inl le_rfl

/-! ## The timer registers, the pin and its direction (R45 to R47, R250, R251) -/

theorem tickResponse_none : tickResponse none false false = 0x1000000000000000#64 := by decide

theorem tickResponse_sendDone : tickResponse none false true = 0x1000000000000008#64 := by decide

/-- An encoder tick leaves `timer_cfg`, `snap` and `mode` alone and answers NONE, or finishes a send:
it restores `timer_cfg`, goes to RX and answers `send_done` (R206, R217). -/
theorem encTick_arb (s : State) :
    ((encTick s).finish.arb = s.arb ∧ (encTick s).finish.resp = some 0x1000000000000000#64) ∨
    ((encTick s).finish.arb = { s.arb with timerCfg := s.arb.snap, mode := .rx } ∧
      (encTick s).finish.resp = some 0x1000000000000008#64) := by
  rcases encTick_cases s with ⟨-, h⟩ | ⟨r, -, -, -, h⟩ | ⟨r, -, -, -, h⟩ <;> rw [h]
  · exact .inl ⟨rfl, congrArg some tickResponse_none⟩
  · exact .inl ⟨rfl, congrArg some tickResponse_none⟩
  · exact .inr ⟨rfl, congrArg some tickResponse_sendDone⟩

theorem decTick_arb (b : Bool) (s : State) : (decTick b s).finish.arb = s.arb :=
  (decTick_frame b s).2.2.1

/-- Settles O22: the three arbiter operations and `SEND` are named in the statement; of the others only
the finishing encoder tick writes `timer_cfg`, and none writes `snap`. -/
theorem onlyArbiterWritesTimer : Obligations.OnlyArbiterWritesTimer := by
  intro i s t h
  have host (hi : HostOp i) : t.arb = s.arb := by
    obtain ⟨rdy, e, r, -, rfl⟩ := exec_host_cases hi h
    rfl
  have same (harb : t.arb = s.arb) {P Q : Prop} :
      (t.arb.timerCfg ≠ s.arb.timerCfg → P) ∧ (t.arb.snap ≠ s.arb.snap → Q) :=
    ⟨fun hne => absurd (congrArg ArbRegs.timerCfg harb) hne,
      fun hne => absurd (congrArg ArbRegs.snap harb) hne⟩
  cases i with
  | nop | getResult | rdStatus | setCb _ => exact same (host (by constructor))
  | tick b =>
    rcases exec_tick_cases h with ⟨hm, rfl⟩ | ⟨-, rfl⟩
    · rcases encTick_arb s with ⟨harb, -⟩ | ⟨harb, hresp⟩
      · exact same harb
      · exact ⟨fun _ => .inr (.inr (.inr (.inr ⟨⟨b, rfl⟩, hm, hresp⟩))),
          fun hne => absurd (congrArg ArbRegs.snap harb) hne⟩
    · exact same (decTick_arb b s)
  | send p a c n =>
    exact ⟨fun _ => .inr (.inr (.inl ⟨p, a, c, n, rfl⟩)), fun _ => .inr ⟨p, a, c, n, rfl⟩⟩
  | cfgTx p => exact ⟨fun _ => .inr (.inl ⟨p, rfl⟩), fun _ => .inl ⟨p, rfl⟩⟩
  | cfgRx =>
    refine ⟨fun _ => .inl rfl, fun hne => absurd ?_ hne⟩
    rcases exec_cfgRx_cases h with ⟨-, rfl⟩ | ⟨-, rfl⟩ <;> rfl
  | restore v =>
    refine ⟨fun _ => .inr (.inr (.inr (.inl ⟨v, rfl⟩))), fun hne => absurd ?_ hne⟩
    rcases exec_restore_cases h with ⟨-, rfl⟩ | ⟨-, rfl⟩ <;> rfl

/-- With no send in mode RX, `pin_on` is off (I1, I10). -/
theorem pinOn_of_rx {s : State} (h : s.Inv) (hm : s.arb.mode = .rx) : s.enc.pinOn = false := by
  obtain ⟨-, he, -⟩ := (inv_iff s).mp h
  rw [hm] at he
  exact (he.inactive he.not_active_of_rx).1

/-- No operation but an encoder tick writes `pin_on`: an accepted `SEND` finds it off already (I10). -/
theorem exec_pinOn {i : Instr} {s t : State} (hs : s.Inv) (h : exec i s = .next t) :
    t.enc.pinOn = s.enc.pinOn ∨ ((∃ b, i = .tick b) ∧ s.arb.mode = .tx) := by
  have host (hi : HostOp i) : t.enc.pinOn = s.enc.pinOn := by
    obtain ⟨rdy, e, r, -, rfl⟩ := exec_host_cases hi h
    rfl
  cases i with
  | nop | getResult | rdStatus | setCb _ => exact .inl (host (by constructor))
  | tick b =>
    rcases exec_tick_cases h with ⟨hm, -⟩ | ⟨-, rfl⟩
    · exact .inr ⟨⟨b, rfl⟩, hm⟩
    · obtain ⟨-, henc, -⟩ := decTick_frame b s
      exact .inl (congrArg EncRegs.pinOn henc)
  | send p a c n =>
    rcases exec_send_cases h with ⟨-, st, rfl⟩ | ⟨-, -, rfl⟩ | ⟨j, hm, -, rfl⟩
    · exact .inl rfl
    · exact .inl rfl
    · exact .inl (pinOn_of_rx hs hm).symm
  | cfgTx p =>
    rcases exec_cfgTx_cases h with ⟨-, st, rfl⟩ | ⟨-, -, rfl⟩ | ⟨j, r, -, -, rfl⟩ <;> exact .inl rfl
  | cfgRx => rcases exec_cfgRx_cases h with ⟨-, rfl⟩ | ⟨-, rfl⟩ <;> exact .inl rfl
  | restore v => rcases exec_restore_cases h with ⟨-, rfl⟩ | ⟨-, rfl⟩ <;> exact .inl rfl

/-- Settles O33: the polarity is fixed, so the pin changes with `pin_on` only. -/
theorem pinChangesOnlyInEncoderTick : Obligations.PinChangesOnlyInEncoderTick := by
  refine ⟨fun _ => rfl, fun i s t hs h hne => ?_⟩
  rcases exec_pinOn hs h with hpin | htick
  · obtain ⟨hcfg, -⟩ := exec_frame h
    exact absurd (by simp only [State.pin, hpin, hcfg]) hne
  · exact htick

/-! ### out_dir -/

theorem outDir_of_rx {s : State} (h : s.arb.mode = .rx) : s.outDir = .in_ := by
  simp [State.outDir, h]

theorem outDir_of_tx {s : State} (h : s.arb.mode = .tx) : s.outDir = .out := by
  simp [State.outDir, h]

theorem outDir_iff (s : State) :
    (s.outDir = .out ↔ s.arb.mode = .tx) ∧ (s.outDir = .in_ ↔ s.arb.mode = .rx) := by
  cases hm : s.arb.mode with
  | rx => simp [outDir_of_rx hm]
  | tx => simp [outDir_of_tx hm]

theorem knows_of_findProto {s : State} {p : BitVec 8} {i : Nat} (h : s.cfg.findProto p = some i) :
    s.Knows p :=
  have ⟨hi, hid⟩ := Config.findProto_some h
  ⟨_, s.cfg.desc_mem i hi, hid⟩

theorem not_knows_of_findProto {s : State} {p : BitVec 8} (h : s.cfg.findProto p = none) :
    ¬ s.Knows p :=
  fun ⟨d, hd, hid⟩ => Config.findProto_none.mp h d hd hid

/-- A `TICK` turns the direction in exactly when it answers `send_done` (R217, R251). -/
theorem outDir_tick {b : Bool} {s t : State} (h : exec (.tick b) s = .next t) :
    t.outDir = if t.resp = some 0x1000000000000008#64 then .in_ else s.outDir := by
  rcases exec_tick_cases h with ⟨-, rfl⟩ | ⟨hm, rfl⟩
  · rcases encTick_arb s with ⟨harb, hresp⟩ | ⟨harb, hresp⟩
    · rw [hresp, if_neg (by decide), State.outDir, harb, State.outDir]
    · rw [hresp, if_pos rfl]
      exact outDir_of_rx (by rw [harb])
  · have hm' : (decTick b s).finish.arb.mode = .rx := by rw [decTick_arb, hm]
    rw [outDir_of_rx hm', outDir_of_rx hm, ite_self]

/-- A switch to send is refused in mode TX, refused for an unknown protocol, or accepted; the direction
follows (R200, R244, R251). -/
theorem outDir_switchToTx {s t : State} {p : BitVec 8}
    (h : (s.arb.mode = .tx ∧ t.arb.mode = .tx) ∨
      (s.arb.mode = .rx ∧ s.cfg.findProto p = none ∧ t.arb.mode = .rx) ∨
      (∃ i, s.cfg.findProto p = some i ∧ t.arb.mode = .tx)) :
    t.outDir = if s.outDir = .out ∨ s.Knows p then .out else .in_ := by
  rcases h with ⟨hm, ht⟩ | ⟨hm, hp, ht⟩ | ⟨i, hp, ht⟩
  · rw [if_pos (.inl (outDir_of_tx hm)), outDir_of_tx ht]
  · rw [if_neg (by simp [outDir_of_rx hm, not_knows_of_findProto hp]), outDir_of_rx ht]
  · rw [if_pos (.inr (knows_of_findProto hp)), outDir_of_tx ht]

theorem outDir_send {s t : State} {p : BitVec 8} {a : BitVec 16} {c : BitVec 32} {n : BitVec 4}
    (h : exec (.send p a c n) s = .next t) :
    t.outDir = if s.outDir = .out ∨ s.Knows p then .out else .in_ := by
  rcases exec_send_cases h with ⟨hm, st, rfl⟩ | ⟨hm, hp, rfl⟩ | ⟨i, -, hp, rfl⟩
  · exact outDir_switchToTx (.inl ⟨hm, hm⟩)
  · exact outDir_switchToTx (.inr (.inl ⟨hm, hp, hm⟩))
  · exact outDir_switchToTx (.inr (.inr ⟨i, hp, rfl⟩))

theorem outDir_cfgTx {s t : State} {p : BitVec 8} (h : exec (.cfgTx p) s = .next t) :
    t.outDir = if s.outDir = .out ∨ s.Knows p then .out else .in_ := by
  rcases exec_cfgTx_cases h with ⟨hm, st, rfl⟩ | ⟨hm, hp, rfl⟩ | ⟨i, r, -, hp, rfl⟩
  · exact outDir_switchToTx (.inl ⟨hm, hm⟩)
  · exact outDir_switchToTx (.inr (.inl ⟨hm, hp, hm⟩))
  · exact outDir_switchToTx (.inr (.inr ⟨i, hp, rfl⟩))

/-- A switch to receive turns the direction in, unless a send in progress, which is in mode TX (I1),
refuses it (R243, R246, R251). -/
theorem outDir_switchToRx {s t : State} {v : TimerConfig} (hs : s.Inv)
    (h : (s.enc.active = true ∧ t = refuse .refusedBusy s) ∨
      (s.enc.active = false ∧ t = respondOk (switchToRx v s))) :
    t.outDir = if s.enc.active then .out else .in_ := by
  obtain ⟨-, he, -⟩ := (inv_iff s).mp hs
  rcases h with ⟨ha, rfl⟩ | ⟨ha, rfl⟩
  · rw [if_pos ha]
    exact outDir_of_tx (he.sending ha).1
  · rw [ha]
    exact outDir_of_rx rfl

/-- Settles O59: out_dir is read off `mode`, and one lemma per operation says where that goes. -/
theorem outDirFollowsMode : Obligations.OutDirFollowsMode := by
  refine ⟨outDir_iff, fun s hs hdir => ?_, fun i s hs => ?_⟩
  · have hpin := pinOn_of_rx hs ((outDir_iff s).2.mp hdir)
    exact ⟨hpin, by simp [State.pin, hpin]⟩
  · obtain ⟨t, h⟩ := exec_of_good hs i
    refine ⟨t, h, ?_⟩
    have host (hi : HostOp i) : t.outDir = s.outDir := by
      obtain ⟨rdy, e, r, -, rfl⟩ := exec_host_cases hi h
      rfl
    cases i with
    | nop | getResult | rdStatus | setCb _ => exact host (by constructor)
    | tick b => exact outDir_tick h
    | send p a c n => exact outDir_send h
    | cfgTx p => exact outDir_cfgTx h
    | cfgRx => exact outDir_switchToRx hs.2 (exec_cfgRx_cases h)
    | restore v => exact outDir_switchToRx hs.2 (exec_restore_cases h)

/-- Settles O11: each register reads as its reset value, `bitpos` as −1 in two's complement. -/
theorem resetRegisterValues : Obligations.ResetRegisterValues :=
  fun c => ⟨State.resetWith c, rfl, bitposIdle_toInt, by
    simp [State.resetWith, RepRegs.atReset, EncRegs.atReset, State.decState, State.outDir,
      State.pin]⟩

end Sys2Proof.Machine

namespace Sys2Proof

/-! ## Operation words as bytes (R62) -/

/-- The bytes of a word, put together again, are the word. -/
@[simp] theorem wordOfBytes_bytes (w : Word) :
    wordOfBytes (w.extractLsb' 0 8) (w.extractLsb' 8 8) (w.extractLsb' 16 8) (w.extractLsb' 24 8)
      (w.extractLsb' 32 8) (w.extractLsb' 40 8) (w.extractLsb' 48 8) (w.extractLsb' 56 8) = w := by
  simp only [wordOfBytes, BitVec.extractLsb'_append_extractLsb'_eq_extractLsb']
  exact BitVec.extractLsb'_eq_self

theorem decodeBytes_of_decode_ok {w : Word} {i : Instr} (h : decode w = .ok i) (rest : List Byte) :
    decodeBytes (bytesOfWord w ++ rest) = .ok (i, rest) := by
  simp [bytesOfWord, decodeBytes, h]

theorem decodeBytes_of_decode_illegal {w : Word} {e : DecodeError} (h : decode w = .illegal e)
    (rest : List Byte) : decodeBytes (bytesOfWord w ++ rest) = .illegal e := by
  simp [bytesOfWord, decodeBytes, h]

/-- Byte `k` of a word holds its bits from `8*k` on. -/
theorem bytesOfWord_getElem? (w : Word) {k : Nat} (hk : k < 8) :
    (bytesOfWord w)[k]? = some (w.extractLsb' (8 * k) 8) := by
  have hmap : bytesOfWord w = (List.range 8).map fun k => w.extractLsb' (8 * k) 8 := rfl
  rw [hmap, List.getElem?_map, List.getElem?_range hk, Option.map_some]

/-- Settles O6: the eight bytes make up the word again, and `decodeBytes` reads no byte after them. -/
theorem wordsAsBytes : Obligations.WordsAsBytes := by
  refine fun w rest => ⟨?_, fun k hk => bytesOfWord_getElem? w hk⟩
  cases h : decode w with
  | ok i => exact decodeBytes_of_decode_ok h rest
  | illegal e => exact decodeBytes_of_decode_illegal h rest

/-- The bits of a row of the opcode table decode as the word they fill up to. -/
theorem decode_tableWord {n w : Nat} {i : Instr} (h : decodeTableWord n w = some i) :
    decode (tableWord n w) = .ok i := by
  rw [decodeTableWord, ← List.append_nil (bytesOfWord _)] at h
  cases hd : decode (tableWord n w) with
  | ok j =>
    rw [decodeBytes_of_decode_ok hd] at h
    exact congrArg Decoded.ok (Option.some.inj h)
  | illegal e =>
    rw [decodeBytes_of_decode_illegal hd] at h
    cases h

end Sys2Proof

namespace Sys2Proof.Machine

/-! ## What a step takes (R65 to R67) -/

/-- With no tick pending, the operation word at the head of the input is run. -/
theorem step_of_op {s : State} {w : Word} {rest : List Input} (hp : s.tickPending = none)
    (hi : s.input = .op w :: rest) : step s = runWord w { s with input := rest } := by
  rw [step, stepInput, hi, hp]

theorem runWord_of_decode_ok {w : Word} {i : Instr} (h : decode w = .ok i) (s : State) :
    runWord w s = exec i s := by
  rw [runWord, h]

/-- A pending tick is taken, whatever but the reset input is presented. -/
theorem step_of_tickPending {s : State} {b : Bool} (hp : s.tickPending = some b)
    (hi : ∀ rest, s.input ≠ .reset :: rest) :
    step s = exec (.tick b) { s with tickPending := none } := by
  rw [step, stepInput, hp]
  cases h : s.input with
  | nil => rfl
  | cons x rest =>
    cases x with
    | op w => rfl
    | reset => exact absurd h (hi rest)

theorem tickDue_of_none {s : State} (h : s.tickPending = none) (b : Bool) :
    s.tickDue b = { s with tickPending := some b } := by
  rw [State.tickDue, h]

theorem tickDue_of_some {s : State} {b' : Bool} (h : s.tickPending = some b') (b : Bool) :
    s.tickDue b = s := by
  rw [State.tickDue, h]

/-- Settles O8: `withFetchWord` presents its word at the head of the input, with no tick pending. -/
theorem stepRunsDecodedOperation : Obligations.StepRunsDecodedOperation := by
  refine ⟨fun s w rest i _ hp hi hd => ?_, fun s n w i _ hd => ?_⟩
  · rw [step_of_op hp hi, runWord_of_decode_ok hd]
  · have htake : step (s.withFetchWord n w) =
        runWord (tableWord n w) { s with tickPending := none } := step_of_op rfl rfl
    rw [htake, runWord_of_decode_ok (decode_tableWord hd)]

/-- Settles O9: one lemma on the step that takes a pending tick, two on the tick that falls due. -/
theorem stepTakesPendingTickFirst : Obligations.StepTakesPendingTickFirst :=
  ⟨fun _ _ hp hi => step_of_tickPending hp hi, fun _ b hp => tickDue_of_none hp b,
    fun _ b _ hp => tickDue_of_some hp b⟩

/-! ## A pending result (R70, R112, R202, R248) -/

/-- A result is pending, and it is `res`. -/
abbrev State.Holds (s : State) (res : DecodedCommand) : Prop := s.ready = true ∧ s.res = res

/-- The decoder holds while a result is pending: it only counts (R112). -/
theorem decTick_of_ready {s : State} (h : s.ready = true) (b : Bool) :
    decTick b s = quiet (countRep s) := by
  rcases decTick_cases b s with ⟨-, heq⟩ | ⟨hn, -⟩
  · exact heq
  · exact absurd (hn.symm.trans h) (by decide)

/-- Only `GET_RESULT` takes a pending result; no other operation writes over it. -/
theorem exec_keeps_result {i : Instr} {s t : State} {res : DecodedCommand} (hi : i ≠ .getResult)
    (hs : s.Holds res) (h : exec i s = .next t) : t.Holds res := by
  cases i with
  | getResult => exact absurd rfl hi
  | nop | rdStatus | setCb _ => cases h; exact hs
  | tick b =>
    rcases exec_tick_cases h with ⟨-, rfl⟩ | ⟨-, rfl⟩
    · obtain ⟨-, -, -, hres, hready, -⟩ := encTick_frame s
      exact ⟨hready.trans hs.1, hres.trans hs.2⟩
    · rw [decTick_of_ready hs.1]
      exact hs
  | send p a c n =>
    rcases exec_send_cases h with ⟨-, st, rfl⟩ | ⟨-, -, rfl⟩ | ⟨j, -, -, rfl⟩ <;> exact hs
  | cfgTx p =>
    rcases exec_cfgTx_cases h with ⟨-, st, rfl⟩ | ⟨-, -, rfl⟩ | ⟨j, r, -, -, rfl⟩ <;> exact hs
  | cfgRx => rcases exec_cfgRx_cases h with ⟨-, rfl⟩ | ⟨-, rfl⟩ <;> exact hs
  | restore v => rcases exec_restore_cases h with ⟨-, rfl⟩ | ⟨-, rfl⟩ <;> exact hs

theorem exec_keeps_good {i : Instr} {s t : State} (hs : s.Good) (h : exec i s = .next t) :
    t.Good := by
  obtain ⟨hcfg, -⟩ := exec_frame h
  exact ⟨hcfg ▸ hs.1, exec_keeps_inv hs h⟩

theorem execAll_cons {i : Instr} {s t : State} (h : exec i s = .next t) (is : List Instr) :
    execAll (i :: is) s = execAll is t := by
  rw [execAll, h]

/-- A list of operations runs through from a good state, and keeps what each of its operations keeps. -/
theorem execAll_keeps {P : State → Prop} {ops : List Instr} {s : State}
    (hP : ∀ i ∈ ops, ∀ s t, P s → exec i s = .next t → P t) (hg : s.Good) (hs : P s) :
    ∃ t, execAll ops s = .next t ∧ t.Good ∧ P t := by
  induction ops generalizing s with
  | nil => exact ⟨s, rfl, hg, hs⟩
  | cons i is ih =>
    obtain ⟨t, h⟩ := exec_of_good hg i
    rw [execAll_cons h]
    exact ih (fun j hj => hP j (.tail i hj)) (exec_keeps_good hg h)
      (hP i (.head is) s t hs h)

/-- Settles O51: every operation of the list keeps the pending result, by `exec_keeps_result`. -/
theorem pendingResultHeld : Obligations.PendingResultHeld := by
  intro ops s hg hready hops
  have hkeep : ∀ i ∈ ops, ∀ s' t : State, s'.Holds s.res → exec i s' = .next t → t.Holds s.res :=
    fun i hi _ _ => exec_keeps_result fun heq => hops (heq ▸ hi)
  obtain ⟨t, hrun, -, hpending, hres⟩ := execAll_keeps hkeep hg ⟨hready, rfl⟩
  exact ⟨t, hrun, hpending, hres⟩

end Sys2Proof.Machine

namespace Sys2Proof

/-! ## Operation words (R80 to R90) -/

/-! ### Decoding an encoded operation -/

theorem decode_eq_tick {w : Word} (hop : w.extractLsb' 60 4 = 0x1#4)
    (hz : w.extractLsb' 1 59 = 0#59) : decode w = .ok (.tick (w.getLsbD 0)) := by
  simp [decode, whenZero, hop, hz]

theorem decode_eq_send {w : Word} (hop : w.extractLsb' 60 4 = 0x2#4) :
    decode w = .ok (.send (w.extractLsb' 52 8) (w.extractLsb' 36 16) (w.extractLsb' 4 32)
      (w.extractLsb' 0 4)) := by
  simp [decode, hop]

theorem decode_eq_setCb {w : Word} (hop : w.extractLsb' 60 4 = 0x5#4)
    (hz : w.extractLsb' 1 59 = 0#59) : decode w = .ok (.setCb (w.getLsbD 0)) := by
  simp [decode, whenZero, hop, hz]

theorem decode_eq_cfgTx {w : Word} (hop : w.extractLsb' 60 4 = 0x7#4)
    (hz : w.extractLsb' 0 52 = 0#52) : decode w = .ok (.cfgTx (w.extractLsb' 52 8)) := by
  simp [decode, whenZero, hop, hz]

theorem decode_eq_restore {w : Word} (hop : w.extractLsb' 60 4 = 0x8#4)
    (hz : w.extractLsb' 32 28 = 0#28) : decode w = .ok (.restore (w.extractLsb' 0 32)) := by
  simp [decode, whenZero, hop, hz]

/-- Each field of an encoded word reads back the operand that the encoding put there. -/
theorem decode_encode (i : Instr) : decode (encode i) = .ok i := by
  cases i
  case nop | getResult | rdStatus | cfgRx => rfl
  case tick b | setCb b => cases b <;> rfl
  case' send => rw [decode_eq_send]
  case' cfgTx => rw [decode_eq_cfgTx]
  case' restore => rw [decode_eq_restore]
  all_goals
    simp (disch := decide) only [encode, BitVec.extractLsb'_append_eq_of_le,
      BitVec.extractLsb'_append_eq_of_add_le, Nat.reduceSub, BitVec.extractLsb'_eq_self]

/-- Settles O1: `decode_encode`, every operation being well-formed. -/
theorem decodeOfEncode : Obligations.DecodeOfEncode := fun i _ => decode_encode i

/-! ### Encoding a decoded word

One lemma per layout of the fields: those that reach from bit 0 to bit 63 make up the word. -/

theorem append_zero_eq_self {w : Word} {op : BitVec 4} (hop : w.extractLsb' 60 4 = op)
    (hz : w.extractLsb' 0 60 = 0#60) : op ++ 0#60 = w := by
  rw [← hop, ← hz]
  simp only [BitVec.extractLsb'_append_extractLsb'_eq_extractLsb', BitVec.extractLsb'_eq_self]

theorem ofBool_getLsbD_zero (w : Word) : BitVec.ofBool (w.getLsbD 0) = w.extractLsb' 0 1 := by
  ext k hk
  obtain rfl : k = 0 := by omega
  simp

theorem append_bit_eq_self {w : Word} {op : BitVec 4} (hop : w.extractLsb' 60 4 = op)
    (hz : w.extractLsb' 1 59 = 0#59) : op ++ 0#59 ++ BitVec.ofBool (w.getLsbD 0) = w := by
  rw [← hop, ← hz, ofBool_getLsbD_zero]
  simp only [BitVec.extractLsb'_append_extractLsb'_eq_extractLsb', BitVec.extractLsb'_eq_self]

theorem encode_send_fields {w : Word} (hop : w.extractLsb' 60 4 = 0x2#4) :
    encode (.send (w.extractLsb' 52 8) (w.extractLsb' 36 16) (w.extractLsb' 4 32)
      (w.extractLsb' 0 4)) = w := by
  rw [encode, ← hop]
  simp only [BitVec.extractLsb'_append_extractLsb'_eq_extractLsb', BitVec.extractLsb'_eq_self]

theorem encode_cfgTx_fields {w : Word} (hop : w.extractLsb' 60 4 = 0x7#4)
    (hz : w.extractLsb' 0 52 = 0#52) : encode (.cfgTx (w.extractLsb' 52 8)) = w := by
  rw [encode, ← hop, ← hz]
  simp only [BitVec.extractLsb'_append_extractLsb'_eq_extractLsb', BitVec.extractLsb'_eq_self]

theorem encode_restore_fields {w : Word} (hop : w.extractLsb' 60 4 = 0x8#4)
    (hz : w.extractLsb' 32 28 = 0#28) : encode (.restore (w.extractLsb' 0 32)) = w := by
  rw [encode, ← hop, ← hz]
  simp only [BitVec.extractLsb'_append_extractLsb'_eq_extractLsb', BitVec.extractLsb'_eq_self]

theorem whenZero_ok_iff {reserved : Bool} {m : String} {i j : Instr} :
    whenZero reserved m i = .ok j ↔ reserved = true ∧ i = j := by
  cases reserved <;> simp [whenZero]

/-- By opcode (R80): an accepted word has its reserved bits at 0, so its fields are all of it. -/
theorem encode_of_decode {w : Word} {i : Instr} (h : decode w = .ok i) : encode i = w := by
  unfold decode at h
  generalize hop : (w.extractLsb' 60 4).toNat = op at h
  match op, hop, h with
  | 0, hop, h | 3, hop, h | 4, hop, h | 6, hop, h =>
    obtain ⟨hz, rfl⟩ := whenZero_ok_iff.mp h
    exact append_zero_eq_self (BitVec.eq_of_toNat_eq hop) (beq_iff_eq.mp hz)
  | 1, hop, h | 5, hop, h =>
    obtain ⟨hz, rfl⟩ := whenZero_ok_iff.mp h
    exact append_bit_eq_self (BitVec.eq_of_toNat_eq hop) (beq_iff_eq.mp hz)
  | 2, hop, h => exact Decoded.ok.inj h ▸ encode_send_fields (BitVec.eq_of_toNat_eq hop)
  | 7, hop, h =>
    obtain ⟨hz, rfl⟩ := whenZero_ok_iff.mp h
    exact encode_cfgTx_fields (BitVec.eq_of_toNat_eq hop) (beq_iff_eq.mp hz)
  | 8, hop, h =>
    obtain ⟨hz, rfl⟩ := whenZero_ok_iff.mp h
    exact encode_restore_fields (BitVec.eq_of_toNat_eq hop) (beq_iff_eq.mp hz)
  | _ + 9, _, h => nomatch h

/-- Settles O2: `encode_of_decode`. -/
theorem encodeOfDecode : Obligations.EncodeOfDecode := fun _ _ => encode_of_decode

/-! ### The opcode table (R99) -/

/-- A field that lies in a row's mask reads in a covered word as it does in the row's pattern. -/
theorem OpRow.extractLsb'_of_covers {r : OpRow} {w : Word} (h : r.covers w = true) {k n : Nat}
    (hmask : r.mask.extractLsb' k n = BitVec.allOnes n) :
    w.extractLsb' k n = r.pattern.extractLsb' k n := by
  rw [← beq_iff_eq.mp h, BitVec.extractLsb'_and, hmask, BitVec.and_allOnes]

/-- A row whose mask is all ones covers its pattern only. -/
theorem OpRow.eq_pattern_of_covers {r : OpRow} {w : Word} (h : r.covers w = true)
    (hmask : r.mask = BitVec.allOnes 64) : w = r.pattern := by
  rw [← beq_iff_eq.mp h, hmask, BitVec.and_allOnes]

/-- A word that a row covers has the row's opcode and no reserved bit set, so it decodes. -/
theorem decode_of_covers {r : OpRow} {w : Word} (hr : r ∈ opcodeTable) (h : r.covers w = true) :
    ∃ i, decode w = .ok i ∧ i.mnemonic = r.mnemonic := by
  have field {k n : Nat} := OpRow.extractLsb'_of_covers h (k := k) (n := n)
  have whole := OpRow.eq_pattern_of_covers h
  simp only [opcodeTable, List.mem_cons, List.not_mem_nil, or_false] at hr
  rcases hr with rfl | rfl | rfl | rfl | rfl | rfl | rfl | rfl | rfl
  · exact ⟨.nop, whole rfl ▸ rfl, rfl⟩
  · exact ⟨_, decode_eq_tick (field (by decide)) (field (by decide)), rfl⟩
  · exact ⟨_, decode_eq_send (field (by decide)), rfl⟩
  · exact ⟨.getResult, whole rfl ▸ rfl, rfl⟩
  · exact ⟨.rdStatus, whole rfl ▸ rfl, rfl⟩
  · exact ⟨_, decode_eq_setCb (field (by decide)) (field (by decide)), rfl⟩
  · exact ⟨.cfgRx, whole rfl ▸ rfl, rfl⟩
  · exact ⟨_, decode_eq_cfgTx (field (by decide)) (field (by decide)), rfl⟩
  · exact ⟨_, decode_eq_restore (field (by decide)) (field (by decide)), rfl⟩

open Laws.EncodeCovered in
/-- The row of its mnemonic covers every operation's word. -/
theorem encode_covered (i : Instr) : Statement i := by
  cases i with
  | nop => exact nop
  | tick b => exact tick b
  | send p a c n => exact send p a c n
  | getResult => exact getResult
  | rdStatus => exact rdStatus
  | setCb e => exact setCb e
  | cfgRx => exact cfgRx
  | cfgTx p => exact cfgTx p
  | restore v => exact restore v

theorem opcodeTable_mnemonic_unique :
    ∀ r ∈ opcodeTable, ∀ r' ∈ opcodeTable, r.mnemonic = r'.mnemonic → r = r' := by decide

/-- Settles O3: a covered word decodes by its fields; a word that decodes is its operation's word,
which the one row of its mnemonic covers. -/
theorem decodeMatchesOpcodeTable : Obligations.DecodeMatchesOpcodeTable := by
  refine fun w r hr => ⟨decode_of_covers hr, fun ⟨i, hdec, hmn⟩ => ?_⟩
  obtain ⟨r', hr', hmn', hcov⟩ := encode_covered i
  obtain rfl := opcodeTable_mnemonic_unique r' hr' r hr (hmn'.trans hmn)
  rwa [encode_of_decode hdec] at hcov

/-! ### Illegal words (R90, R265) -/

theorem whenZero_illegal_iff {reserved : Bool} {m : String} {i : Instr} :
    (∃ e, whenZero reserved m i = .illegal e) ↔ reserved = false := by
  cases reserved <;> simp [whenZero]

open Machine in
theorem decode_illegal_iff (w : Word) : (∃ e, decode w = .illegal e) ↔ Reserved w := by
  unfold decode Reserved
  generalize (w.extractLsb' 60 4).toNat = op
  match op with
  | 2 => simp
  | 0 | 1 | 3 | 4 | 5 | 6 | 7 | 8 => simp [whenZero_illegal_iff]
  | op + 9 => exact iff_of_true ⟨_, rfl⟩ (.inl (Nat.le_add_left 9 op))

end Sys2Proof

namespace Sys2Proof.Machine

theorem runWord_of_decode_illegal {w : Word} {e : DecodeError} (h : decode w = .illegal e)
    (s : State) : runWord w s = .next (illegalWord s) := by
  rw [runWord, h]

theorem illegalWord_eq (s : State) :
    illegalWord s = { s with resp := some 0xF000000000000000#64 } := by
  have hresp : response .illegal 0#60 = 0xF000000000000000#64 := by decide
  rw [illegalWord, refuse, respond, hresp]

/-- Settles O4: the words that do not decode are the reserved ones, and a step answers one by
`illegalWord`. -/
theorem illegalWordsAreAnswered : Obligations.IllegalWordsAreAnswered := by
  refine ⟨decode_illegal_iff, fun w => ?_, fun w s rest hw hp hi => ?_⟩
  · cases hdec : decode w with
    | ok i => exact .inr ⟨i, rfl⟩
    | illegal e => exact .inl ((decode_illegal_iff w).mp ⟨e, hdec⟩)
  · obtain ⟨e, hdec⟩ := (decode_illegal_iff w).mpr hw
    rw [step_of_op hp hi, runWord_of_decode_illegal hdec, illegalWord_eq]

/-- Settles O5: the decoder runs on each closed word. -/
theorem sampleWordsDecode : Obligations.SampleWordsDecode :=
  ⟨rfl, rfl, rfl, rfl, rfl, rfl, rfl, rfl, rfl, rfl⟩

/-! ## Statuses and refusals (R91, R300) -/

@[simp] theorem statusOf_response (st : Status) (p : BitVec 60) :
    statusOf (response st p) = st.code :=
  BitVec.extractLsb'_append_eq_left

@[simp] theorem payload_response (st : Status) (p : BitVec 60) :
    (response st p).extractLsb' 0 60 = p :=
  BitVec.extractLsb'_append_eq_right

/-- The statuses of a refusal (R91). `ILLEGAL` answers a word, not an operation. -/
def Status.Refuses (st : Status) : Prop :=
  st = .refusedBusy ∨ st = .refusedMode ∨ st = .refusedProto

theorem txRefusal_refuses (s : State) : (txRefusal s).Refuses := by
  unfold txRefusal
  split
  · exact .inl rfl
  · exact .inr (.inl rfl)

/-- The response of a `TICK` is OK with a record, NONE without (R92). -/
theorem tickResponse_eq (record : Option DecodedCommand) (dataComplete sendDone : Bool) :
    ∃ st p, (st = .ok ∨ st = .none) ∧
      tickResponse record dataComplete sendDone = response st p := by
  cases record with
  | none => exact ⟨_, _, .inr rfl, rfl⟩
  | some r => exact ⟨_, _, .inl rfl, rfl⟩

/-- An operation answers OK or NONE, or it is refused (R91). -/
theorem exec_answers {i : Instr} {s t : State} (h : exec i s = .next t) :
    (∃ st p, (st = .ok ∨ st = .none) ∧ t.resp = some (response st p)) ∨
    (∃ st, st.Refuses ∧ t = refuse st s) := by
  cases i with
  | nop | rdStatus | setCb _ => cases h; exact .inl ⟨.ok, _, .inl rfl, rfl⟩
  | tick b =>
    obtain ⟨-, rfl⟩ := execTick_next h
    obtain ⟨st, p, hst, hresp⟩ := tickResponse_eq (tickOut b s).record
      (tickOut b s).dataComplete (tickOut b s).sendDone
    exact .inl ⟨st, p, hst, congrArg some hresp⟩
  | getResult =>
    cases h
    split
    · exact .inl ⟨.ok, _, .inl rfl, rfl⟩
    · exact .inl ⟨.none, _, .inr rfl, rfl⟩
  | send _ _ _ _ | cfgTx _ =>
    cases h
    split
    · exact .inr ⟨_, txRefusal_refuses s, rfl⟩
    · split
      · exact .inr ⟨_, .inr (.inr rfl), rfl⟩
      · exact .inl ⟨.ok, _, .inl rfl, rfl⟩
  | cfgRx | restore _ =>
    cases h
    split
    · exact .inr ⟨_, .inl rfl, rfl⟩
    · exact .inl ⟨.ok, _, .inl rfl, rfl⟩

/-- Settles O24: the status tells the two cases of `exec_answers` apart. -/
theorem refusalsChangeNothing : Obligations.RefusalsChangeNothing := by
  intro i s t h
  rcases exec_answers h with ⟨st, p, hst, hresp⟩ | ⟨st, hst, rfl⟩
  · refine ⟨_, hresp, ?_⟩
    rw [statusOf_response]
    rcases hst with rfl | rfl <;> exact ⟨by decide, fun hin => absurd hin (by decide)⟩
  · refine ⟨_, rfl, ?_, fun _ => ⟨payload_response st 0#60, rfl⟩⟩
    rw [statusOf_response]
    rcases hst with rfl | rfl | rfl <;> decide

end Sys2Proof.Machine

namespace Sys2Proof

/-! ## The common part of the decoder (40_decoder_common.md) -/

/-- A saturating counter counts up to 0xFFFF (R11). -/
theorem satInc_toNat_eq_min (c : Half) : (satInc c).toNat = min (c.toNat + 1) 0xFFFF := by
  unfold satInc
  split
  · rename_i hmax
    simp [hmax]
  · bv_omega

/-- A saturated count is outside every window in range (R97 W5, R115). -/
theorem Timing.InRange.not_has_saturated {t : Timing} (h : t.InRange) : ¬ t.Has 0xFFFF#16 := by
  obtain ⟨-, hmax⟩ := h
  rintro ⟨-, hle⟩
  exact absurd (hle.trans hmax) (by decide)

end Sys2Proof

namespace Sys2Proof.Machine

/-! ### A decoder tick as an operation (R110, R111, R240) -/

/-- A decoder tick without a fault runs `decTick` (R240). -/
theorem exec_tick_of_rx {s : State} (hm : s.arb.mode = .rx) (hf : decFault s = none) (b : Bool) :
    exec (.tick b) s = .next (decTick b s).finish := by
  have hfault : tickFault s = none := by rwa [tickFault, hm]
  have hout : tickOut b s = decTick b s := by rw [tickOut, hm]
  rw [exec, execTick, hfault, hout]

/-- The statements' sample for a mark reads as a mark, and for a space as a space (R16). -/
@[simp] theorem sample_beq_activeIn (s : State) (m : Bool) : (s.sample m == s.cfg.activeIn) = m := by
  cases m <;> simp [State.sample]

/-- A decoder that listens counts `rep_timer` and looks at the sample (R110, R111). -/
theorem exec_tick_of_listening {s : State} (hl : s.Listening) (hf : decFault s = none) (m : Bool) :
    exec (.tick (s.sample m)) s = .next (decSample m (countRep s)).finish := by
  obtain ⟨hm, hr⟩ := hl
  have htick : decTick (s.sample m) s = decSample m (countRep s) := by
    rcases decTick_cases (s.sample m) s with ⟨ht, -⟩ | ⟨-, heq, -⟩
    · exact absurd (hr.symm.trans ht) (by decide)
    · rw [heq, sample_beq_activeIn]
  rw [exec_tick_of_rx hm hf, htick]

/-- A silent tick after the count is the statements' `rxNone` (R92, R111). -/
theorem finish_quiet_countRep (s : State) (r : DecRegs) :
    (quiet { countRep s with dec := r }).finish = s.rxNone r :=
  congrArg (fun w => { countRep s with dec := r, resp := some w }) tickResponse_none

theorem decFault_of_ready {s : State} (h : s.ready = true) : decFault s = none := by
  simp [decFault, h]

theorem decFault_of_idle {s : State} (h : s.dec.startBitDetected = false) : decFault s = none := by
  simp [decFault, h]

theorem decFault_of_startBitSeen {s : State} (h : s.decState = .startBitSeen) :
    decFault s = none := by
  simp [decFault, (decState_eq_startBitSeen h).2]

/-- In IDLE a tick is the mark's or the space's rule (R115, R116). -/
theorem exec_tick_of_idle {s : State} (hl : s.Listening) (hs : s.dec.startBitDetected = false)
    (m : Bool) : exec (.tick (s.sample m)) s =
      .next (if m then idleMark (countRep s) else idleSpace (countRep s)).finish := by
  have hidle : (countRep s).decState = .idle := (decState_eq_idle_iff _).mpr hs
  rw [exec_tick_of_listening hl (decFault_of_idle hs), decSample, hidle]

/-- In START_BIT_SEEN a tick is the header mark's or the header space's rule (R118, R120). -/
theorem exec_tick_of_startBitSeen {s : State} (hl : s.Listening) (hs : s.decState = .startBitSeen)
    (m : Bool) : exec (.tick (s.sample m)) s =
      .next (if m then hdrMarkTick (countRep s) else hdrSpaceTick (countRep s)).finish := by
  have hseen : (countRep s).decState = .startBitSeen := hs
  rw [exec_tick_of_listening hl (decFault_of_startBitSeen hs), decSample, hseen]

/-! ### Hold, and what a decoder tick without a result leaves alone (R111, R112, R114) -/

/-- Settles O35: in hold a decoder tick is silent after the count. -/
theorem holdOnlyCounts : Obligations.HoldOnlyCounts := by
  intro s b hm hr
  rw [exec_tick_of_rx hm (decFault_of_ready hr), decTick_of_ready hr]
  exact congrArg _ (finish_quiet_countRep s s.dec)

/-- A tick that gives a record answers OK (R92). -/
theorem statusOf_tickResponse_some (r : DecodedCommand) (dataComplete sendDone : Bool) :
    statusOf (tickResponse (some r) dataComplete sendDone) = 0x0#4 := statusOf_response .ok _

/-- A tick's outcome is without a result: nothing but the frame registers changed from `s` after the
count. -/
abbrev SilentTick (s : State) (o : TickOut) : Prop := ∃ r, o.finish = s.rxNone r

/-- A tick's outcome is a result: the response is OK and `rep_timer` starts anew (R92, R182). -/
abbrev EmittingTick (o : TickOut) : Prop :=
  o.state.rep.timer = 0#16 ∧ statusOf (tickResponse o.record o.dataComplete o.sendDone) = 0x0#4

/-- Completing a frame drops a repeat code silently, or emits a result (R180, R186). -/
theorem complete_silent_or_emits (s : State) (r : DecRegs) :
    SilentTick s (complete { countRep s with dec := r }) ∨
      EmittingTick (complete { countRep s with dec := r }) := by
  rcases complete_cases { countRep s with dec := r } with ⟨-, -, h⟩ | ⟨-, -, h⟩ | ⟨-, h⟩ <;> rw [h]
  · exact .inl ⟨.cleared, finish_quiet_countRep s .cleared⟩
  · exact .inr ⟨rfl, statusOf_tickResponse_some _ _ _⟩
  · exact .inr ⟨rfl, statusOf_tickResponse_some _ _ _⟩

/-- A decoder tick is silent, or emits a result (R110 to R112, R182). -/
theorem decTick_silent_or_emits (b : Bool) (s : State) :
    SilentTick s (decTick b s) ∨ EmittingTick (decTick b s) := by
  rcases decTick_cases b s with ⟨-, h⟩ | ⟨-, -, ⟨r, h⟩ | ⟨r, h⟩⟩ <;> rw [h]
  · exact .inl ⟨s.dec, finish_quiet_countRep s s.dec⟩
  · exact .inl ⟨r, finish_quiet_countRep s r⟩
  · exact complete_silent_or_emits s r

/-- Settles O49: a tick that does not answer OK is not an emitting one, so it is silent. -/
theorem silentTickLeavesNoTrace : Obligations.SilentTickLeavesNoTrace := by
  intro s t b r hm h hresp hst
  rcases exec_tick_cases h with ⟨htx, -⟩ | ⟨-, rfl⟩
  · exact absurd (hm.symm.trans htx) (by decide)
  · rcases decTick_silent_or_emits b s with ⟨r', heq⟩ | ⟨-, hok⟩
    · rw [heq]
      rfl
    · cases hresp
      exact absurd hok hst

/-- Only a decoder tick writes the repeat-detection registers (R35, R111). -/
theorem exec_rep {i : Instr} {s t : State} (h : exec i s = .next t)
    (hi : s.arb.mode = .tx ∨ ∀ b, i ≠ .tick b) : t.rep = s.rep := by
  have host (hop : HostOp i) : t.rep = s.rep := by
    obtain ⟨rdy, e, r, -, rfl⟩ := exec_host_cases hop h
    rfl
  cases i with
  | nop | getResult | rdStatus | setCb _ => exact host (by constructor)
  | tick b =>
    have htx : s.arb.mode = .tx := hi.resolve_right fun hne => hne b rfl
    rcases exec_tick_cases h with ⟨-, rfl⟩ | ⟨hrx, -⟩
    · obtain ⟨-, -, hrep, -⟩ := encTick_frame s
      exact hrep
    · exact absurd (hrx.symm.trans htx) (by decide)
  | send p a c n =>
    rcases exec_send_cases h with ⟨-, st, rfl⟩ | ⟨-, -, rfl⟩ | ⟨j, -, -, rfl⟩ <;> rfl
  | cfgTx p =>
    rcases exec_cfgTx_cases h with ⟨-, st, rfl⟩ | ⟨-, -, rfl⟩ | ⟨j, r, -, -, rfl⟩ <;> rfl
  | cfgRx => rcases exec_cfgRx_cases h with ⟨-, rfl⟩ | ⟨-, rfl⟩ <;> rfl
  | restore v => rcases exec_restore_cases h with ⟨-, rfl⟩ | ⟨-, rfl⟩ <;> rfl

/-- Settles O36: a silent tick counts `rep_timer`, an emitting one clears it, and no other operation
writes it (`exec_rep`). -/
theorem repeatTimerCounts : Obligations.RepeatTimerCounts := by
  refine ⟨fun s b hg hm => ?_, fun i s t h hi => exec_rep h hi⟩
  obtain ⟨hd, -⟩ := (inv_iff s).mp hg.2
  rw [exec_tick_of_rx hm (decFault_eq_none hd)]
  rcases decTick_silent_or_emits b s with ⟨r, heq⟩ | ⟨htimer, hok⟩
  · have hnone : statusOf 0x1000000000000000#64 ≠ 0x0#4 := by decide
    rw [heq]
    exact ⟨_, _, rfl, rfl, by rw [if_neg hnone]; exact satInc_toNat_eq_min s.rep.timer⟩
  · exact ⟨_, _, rfl, rfl, by rw [if_pos hok, finish_rep, htimer]; rfl⟩

/-! ### IDLE (R115 to R117) -/

/-- Settles O37: R115's rule, and W5 keeps every header window below 0xFFFF. -/
theorem leadingMarkCounts : Obligations.LeadingMarkCounts := by
  refine ⟨fun s hl hs => ?_, fun c hc d hd => ?_⟩
  · rw [exec_tick_of_idle hl hs]
    exact congrArg _ (finish_quiet_countRep s _)
  · obtain ⟨-, ⟨hwf, -⟩, -⟩ := hc
    obtain ⟨-, -, -, -, ⟨hpulse, -, -, -, -, -, hrpt⟩, -⟩ := (Desc.wf_iff d).mp (hwf d hd)
    exact ⟨hpulse.not_has_saturated, fun h => (hrpt h).1.not_has_saturated⟩

/-- `hdr_pulse_any`: the mark fits a header or repeat-header mark of the table (R117). -/
theorem hdrPulseAny_iff (c : Config) (p : Half) :
    hdrPulseAny c p = true ↔
      ∃ d ∈ c.table, d.hdrPulse.Has p ∨ (d.hasRpt = true ∧ d.rptPulse.Has p) := by
  simp only [hdrPulseAny, List.any_eq_true, Bool.or_eq_true, Bool.and_eq_true, within_iff]

/-- Settles O38: the three branches of R116, with `hdrPulseAny_iff` for the test of R117. -/
theorem leadingMarkEnds : Obligations.LeadingMarkEnds := by
  intro s hl hs
  rw [exec_tick_of_idle hl hs, if_neg Bool.false_ne_true, idleSpace, countRep_dec, countRep_cfg]
  refine ⟨fun hzero => ?_, fun hpos hany => ?_, fun hpos hnone => ?_⟩
  · rw [if_pos hzero]
    exact congrArg _ (finish_quiet_countRep s s.dec)
  · rw [if_neg hpos, if_pos ((hdrPulseAny_iff _ _).mpr hany)]
    exact congrArg _ (finish_quiet_countRep s _)
  · have hfits : ¬ hdrPulseAny s.cfg s.dec.pulseTime = true := by
      rw [hdrPulseAny_iff]
      rintro ⟨d, hd, hfit⟩
      exact hfit.elim (hnone d hd).1 (hnone d hd).2
    rw [if_neg hpos, if_neg hfits]
    exact congrArg _ (finish_quiet_countRep s .cleared)

/-! ### The header space (R118, R119) -/

/-- `hdr_viable`, window by window: a record is viable by its normal header, widened by a half bit for
Manchester, or by its repeat header (R119). -/
theorem hdrViable_eq (c : Config) (p q : Half) :
    hdrViable c p q = c.table.any (fun d =>
      decide (d.hdrPulse.Has p ∧
        (q.toNat : Int) ≤ d.hdrPause.max + (if d.isManchester then d.p1Pulse.max else 0)) ||
      decide (d.hasRpt = true ∧ d.rptPulse.Has p ∧ (q.toNat : Int) ≤ d.rptPause.max)) := by
  unfold hdrViable
  congr 1
  funext d
  rw [Bool.eq_iff_iff]
  simp only [Bool.or_eq_true, Bool.and_eq_true, decide_eq_true_eq, within_iff, atMost_iff, and_assoc]

/-- Settles O39: R118's rule, with the test of R119 as `hdrViable_eq` states it. -/
theorem headerSpaceCounts : Obligations.HeaderSpaceCounts := by
  intro s hl hs
  rw [exec_tick_of_startBitSeen hl hs, if_neg Bool.false_ne_true, ← hdrViable_eq, hdrSpaceTick,
    countRep_dec, countRep_cfg]
  split
  · exact congrArg _ (finish_quiet_countRep s _)
  · exact congrArg _ (finish_quiet_countRep s .cleared)

/-! ### The header match (R120 to R122) -/

/-- The kinds of header are tried in R121's order. -/
theorem hdrKind_eq (d : Desc) (p q : Half) :
    hdrKind d p q = if Normal d p q then some .normal else if Shifted d p q then some .shifted
      else if Rpt d p q then some .rpt else none := by
  have hnormal : (within p d.hdrPulse && within q d.hdrPause) = true ↔ Normal d p q := by
    simp only [Bool.and_eq_true, within_iff]
  have hshifted : (within p d.hdrPulse && d.isManchester &&
      decide (d.hdrPause.min + d.p1Pulse.min ≤ (q.toNat : Int)) &&
      decide ((q.toNat : Int) ≤ d.hdrPause.max + d.p1Pulse.max)) = true ↔ Shifted d p q := by
    simp only [Bool.and_eq_true, decide_eq_true_eq, within_iff]
    tauto
  have hrpt : (d.hasRpt && within p d.rptPulse && within q d.rptPause) = true ↔ Rpt d p q := by
    simp only [Bool.and_eq_true, within_iff]
    exact and_assoc
  simp only [hdrKind, hnormal, hshifted, hrpt]

theorem hdrKind_of_normal {d : Desc} {p q : Half} (h : Normal d p q) :
    hdrKind d p q = some .normal := by
  rw [hdrKind_eq, if_pos h]

/-- The shifted header space begins where the normal one has ended (R97 W7). -/
theorem not_normal_of_shifted {d : Desc} {p q : Half} (hd : d.WF) (h : Shifted d p q) :
    ¬ Normal d p q := by
  obtain ⟨-, -, -, -, -, -, w7, -⟩ := (Desc.wf_iff d).mp hd
  obtain ⟨hman, -, hlow, -⟩ := h
  obtain ⟨-, -, -, -, -, -, hgrid, -⟩ := w7 hman
  rintro ⟨-, -, hhigh⟩
  omega

/-- A repeat header differs from the normal header in its mark or in its space (R97 W6). -/
theorem not_normal_of_rpt {d : Desc} {p q : Half} (hd : d.WF) (h : Rpt d p q) :
    ¬ Normal d p q := by
  obtain ⟨-, -, -, -, -, w6, -⟩ := (Desc.wf_iff d).mp hd
  obtain ⟨hrpt, hpulse, hpause⟩ := h
  obtain ⟨-, -, hdisj⟩ := w6 hrpt
  rintro ⟨hpulse', hpause'⟩
  omega

/-- A record with a repeat code is not Manchester (R97 W6). -/
theorem not_shifted_of_rpt {d : Desc} {p q : Half} (hd : d.WF) (h : Rpt d p q) :
    ¬ Shifted d p q := by
  obtain ⟨-, -, -, -, -, w6, -⟩ := (Desc.wf_iff d).mp hd
  obtain ⟨hnot, -⟩ := w6 h.1
  exact fun ⟨hman, _⟩ => absurd (hnot.symm.trans hman) (by decide)

theorem hdrKind_of_shifted {d : Desc} {p q : Half} (hd : d.WF) (h : Shifted d p q) :
    hdrKind d p q = some .shifted := by
  rw [hdrKind_eq, if_neg (not_normal_of_shifted hd h), if_pos h]

theorem hdrKind_of_rpt {d : Desc} {p q : Half} (hd : d.WF) (h : Rpt d p q) :
    hdrKind d p q = some .rpt := by
  rw [hdrKind_eq, if_neg (not_normal_of_rpt hd h), if_neg (not_shifted_of_rpt hd h), if_pos h]

theorem hdrKind_of_noHeader {d : Desc} {p q : Half} (h : NoHeader d p q) :
    hdrKind d p q = none := by
  obtain ⟨hnormal, hshifted, hrpt⟩ := h
  rw [hdrKind_eq, if_neg hnormal, if_neg hshifted, if_neg hrpt]

/-- The scan passes over the records that do not match (R122). -/
theorem hdrScan_eq_none {p q : Half} {ds : List Desc} (h : ∀ d ∈ ds, hdrKind d p q = none)
    (i : Nat) : hdrScan p q ds i = none := by
  induction ds generalizing i with
  | nil => rfl
  | cons d ds ih =>
    rw [hdrScan, h d (.head ds)]
    exact ih (fun e he => h e (.tail d he)) (i + 1)

/-- The scan stops at the first record that matches (R122). -/
theorem hdrScan_eq_first {p q : Half} {ds : List Desc} {k : HdrKind} {n : Nat}
    (hn : n < ds.length) (hk : hdrKind ds[n] p q = some k)
    (hbelow : ∀ j (hj : j < n), hdrKind ds[j] p q = none) (i : Nat) :
    hdrScan p q ds i = some (i + n, k) := by
  induction ds generalizing n i with
  | nil => cases hn
  | cons d ds ih =>
    cases n with
    | zero =>
      rw [hdrScan, show hdrKind d p q = some k from hk]
      rfl
    | succ n =>
      rw [hdrScan, show hdrKind d p q = none from hbelow 0 n.succ_pos,
        show i + (n + 1) = i + 1 + n by omega]
      exact ih (Nat.lt_of_succ_lt_succ hn) hk
        (fun j hj => hbelow (j + 1) (Nat.succ_lt_succ hj)) (i + 1)

/-- The lowest index whose record fits the header is chosen (R121, R122). -/
theorem hdrMatch_eq_first {c : Config} {p q : Half} {i : Nat} {k : HdrKind} (hi : i < c.nproto)
    (hbelow : ∀ j < i, NoHeader (c.desc j) p q) (hk : hdrKind (c.desc i) p q = some k) :
    hdrMatch c p q = some (i, k) := by
  rw [c.desc_of_lt i hi] at hk
  rw [hdrMatch, hdrScan_eq_first hi hk fun j hj => ?_, Nat.zero_add]
  have hj' := hdrKind_of_noHeader (hbelow j hj)
  rwa [c.desc_of_lt j (hj.trans hi)] at hj'

theorem hdrMatch_eq_none {c : Config} {p q : Half}
    (h : ∀ j < c.nproto, NoHeader (c.desc j) p q) : hdrMatch c p q = none := by
  refine hdrScan_eq_none (fun d hd => ?_) 0
  obtain ⟨j, hj, rfl⟩ := List.getElem_of_mem hd
  rw [← c.desc_of_lt j hj]
  exact hdrKind_of_noHeader (h j hj)

/-- A header match that is not shifted enters the frame at bit 0 (R120). -/
theorem exec_tick_of_hdrMatch {s : State} {i : Nat} {k : HdrKind} (hl : s.Listening)
    (hs : s.decState = .startBitSeen)
    (hm : hdrMatch s.cfg s.dec.pulseTime s.dec.pauseTime = some (i, k)) (hk : k ≠ .shifted) :
    exec (.tick (s.sample true)) s = .next (s.rxNone (hdrEnter i k s.dec)) := by
  rw [exec_tick_of_startBitSeen hl hs, if_pos rfl, hdrMarkTick, countRep_dec, countRep_cfg, hm]
  simp only [if_neg hk]
  exact congrArg _ (finish_quiet_countRep s _)

/-- A shifted header match enters the frame in the middle of its first bit, a 0 on the wire (R120). -/
theorem exec_tick_of_hdrMatch_shifted {s : State} {i : Nat} (hl : s.Listening)
    (hs : s.decState = .startBitSeen)
    (hm : hdrMatch s.cfg s.dec.pulseTime s.dec.pauseTime = some (i, .shifted)) :
    exec (.tick (s.sample true)) s = .next (s.rxNone
      { (storeBit (s.cfg.desc i) false (hdrEnter i .shifted s.dec)).1 with manMid := true }) := by
  rw [exec_tick_of_startBitSeen hl hs, if_pos rfl, hdrMarkTick, countRep_dec, countRep_cfg, hm]
  exact congrArg _ (finish_quiet_countRep s _)

/-- With no record that fits, the frame is abandoned and the mark counted anew (R114, R120). -/
theorem exec_tick_of_hdrMatch_none {s : State} (hl : s.Listening) (hs : s.decState = .startBitSeen)
    (hm : hdrMatch s.cfg s.dec.pulseTime s.dec.pauseTime = none) :
    exec (.tick (s.sample true)) s = .next (s.rxNone .restarted) := by
  rw [exec_tick_of_startBitSeen hl hs, if_pos rfl, hdrMarkTick, countRep_dec, countRep_cfg, hm]
  exact congrArg _ (finish_quiet_countRep s .restarted)

/-- The first stored bit of a shifted header: a wire 0, kept as 1 by an inverted record (R123). -/
theorem storeBit_hdrEnter_shifted {d : Desc} (hd : d.WF) (i : Nat) (r : DecRegs) :
    (storeBit d false (hdrEnter i .shifted r)).1 =
      { hdrEnter i .shifted r with
        bitpos := 1#7, data := if d.inv then 1#32 else 0#32 } := by
  obtain ⟨-, -, ⟨-, -, hpos, -⟩, -⟩ := (Desc.wf_iff d).mp hd
  rcases storeBit_cases d false (hdrEnter i .shifted r) with ⟨hfull, -⟩ | ⟨-, heq⟩
  · have hroom : (d.nbits : Int) ≤ 0 := hfull
    omega
  · have hdata : ∀ b : Bool, 0#32 <<< 1 ||| (BitVec.ofBool (false ^^ b)).zeroExtend 32 =
        if b then 1#32 else 0#32 := by decide
    rw [heq, ← hdata]
    rfl

/-- Settles O40: `hdr_match` finds the lowest record that fits, W6 and W7 make its kind unique, and
each kind starts the frame registers by its rule. -/
theorem headerMatchEnters : Obligations.HeaderMatchEnters := by
  intro s hc hl hs
  obtain ⟨hstart, -⟩ := decState_eq_startBitSeen hs
  refine ⟨fun i hi hbelow => ?_, fun hnone => ?_⟩
  · have hd := hc.desc hi
    refine ⟨fun h => ?_, fun h => ?_, fun h => ?_⟩
    · have hm := hdrMatch_eq_first hi hbelow (hdrKind_of_normal h)
      rw [exec_tick_of_hdrMatch hl hs hm (by decide), hdrEnter, hstart]
      rfl
    · have hm := hdrMatch_eq_first hi hbelow (hdrKind_of_shifted hd h)
      rw [exec_tick_of_hdrMatch_shifted hl hs hm, storeBit_hdrEnter_shifted hd, hdrEnter, hstart]
      rfl
    · have hm := hdrMatch_eq_first hi hbelow (hdrKind_of_rpt hd h)
      rw [exec_tick_of_hdrMatch hl hs hm (by decide), hdrEnter, hstart]
      rfl
  · exact exec_tick_of_hdrMatch_none hl hs (hdrMatch_eq_none hnone)

end Sys2Proof.Machine

namespace Sys2Proof

/-! ## Windows and well-formed records (R15, R97) -/

theorem within_iff_has (v : Half) (t : Timing) : within v t = true ↔ t.Has v := within_iff v t

theorem within_eq_decide_has (v : Half) (t : Timing) : within v t = decide (t.Has v) := by
  rw [Bool.eq_iff_iff, within_iff_has, decide_eq_true_eq]

/-- A record with a stop bit is not Manchester (R97 W7). -/
theorem Desc.WF.not_manchester_of_hasStop {d : Desc} (hd : d.WF) (h : d.hasStop = true) :
    d.isManchester = false := by
  obtain ⟨-, -, -, -, -, -, w7, -⟩ := (Desc.wf_iff d).mp hd
  cases hman : d.isManchester with
  | false => rfl
  | true => exact absurd (h.symm.trans (w7 hman).1) (by decide)

/-- A record with a repeat code has a stop bit (R97 W6). -/
theorem Desc.WF.hasStop_of_hasRpt {d : Desc} (hd : d.WF) (h : d.hasRpt = true) :
    d.hasStop = true := by
  obtain ⟨-, -, -, -, -, w6, -⟩ := (Desc.wf_iff d).mp hd
  obtain ⟨-, hstop, -⟩ := w6 h
  exact hstop

theorem Desc.WF.nbits_le {d : Desc} (hd : d.WF) : d.nbits ≤ 32 := by
  obtain ⟨-, -, ⟨-, -, -, hmax⟩, -⟩ := (Desc.wf_iff d).mp hd
  exact hmax

end Sys2Proof

namespace Sys2Proof.Machine

/-! ## Data bits and the stop mark (41_decoder_bits.md) -/

/-! ### The frame being received (R21, R140) -/

/-- A frame with a stop bit that is still in RECEIVING_BITS is not full (R21). -/
theorem bitpos_ne_nbitsEff_of_receivingBits {s : State} (h : s.decState = .receivingBits)
    (hstop : s.cand.hasStop = true) : s.dec.bitpos.toInt ≠ s.nbitsEff := by
  intro heq
  obtain ⟨hstart, hpos⟩ := decState_eq_receiving (.inl h)
  simp [State.decState, hstart, hpos, heq, hstop] at h

theorem hasStop_of_stopBitExpected {s : State} (h : s.decState = .stopBitExpected) :
    s.cand.hasStop = true := by
  obtain ⟨hstart, hpos⟩ := decState_eq_receiving (.inr h)
  cases hstop : s.cand.hasStop with
  | true => rfl
  | false => simp [State.decState, hstart, hpos, hstop] at h

theorem State.Good.receiving {s : State} (hg : s.Good)
    (hs : s.decState = .receivingBits ∨ s.decState = .stopBitExpected) :
    Receiving s.cfg s.dec := by
  obtain ⟨hd, -⟩ := (inv_iff s).mp hg.2
  exact hd.receiving hs

theorem State.Good.cand_wf {s : State} (hg : s.Good)
    (hs : s.decState = .receivingBits ∨ s.decState = .stopBitExpected) : s.cand.WF :=
  have hrec := hg.receiving hs
  hg.1.desc (hrec.candIdx_lt hrec.candidate)

/-- A repeat code has no bit to receive: it goes from its header to its stop mark (R32, R97 W6). -/
theorem State.Good.rpt_of_receivingBits {s : State} (hg : s.Good)
    (hs : s.decState = .receivingBits) : s.dec.rpt = false := by
  refine Bool.eq_false_iff.mpr fun hr => ?_
  obtain ⟨hhas, hzero⟩ := (hg.receiving (.inl hs)).rpt hr
  have hstop := (hg.cand_wf (.inl hs)).hasStop_of_hasRpt hhas
  exact bitpos_ne_nbitsEff_of_receivingBits hs hstop (by simp [State.nbitsEff, hr, hzero])

/-- In RECEIVING_BITS of a record that is not Manchester there is a bit to come (R21, R144). -/
theorem State.Good.bitpos_lt_nbits {s : State} (hg : s.Good) (hs : s.decState = .receivingBits)
    (hman : s.cand.isManchester = false) : s.dec.bitpos.toInt < (s.cand.nbits : Int) := by
  have hrec := hg.receiving (.inl hs)
  cases hstop : s.cand.hasStop with
  | false => exact hrec.bitToCome hrec.candidate hman hstop
  | true =>
    have hne := bitpos_ne_nbitsEff_of_receivingBits hs hstop
    obtain ⟨-, hle⟩ := hrec.bitpos_bounds hrec.candidate
    simp only [State.nbitsEff, hg.rpt_of_receivingBits hs, Bool.false_eq_true, if_false] at hne hle
    exact lt_of_le_of_ne hle hne

/-- A full frame with a bit to come stores it: `store_bit` is the statements' `shiftIn` (R123). -/
theorem storeBit_of_lt {d : Desc} {r : DecRegs} (hr : r.rpt = false)
    (hlt : r.bitpos.toInt < (d.nbits : Int)) (w : Bool) :
    storeBit d w r =
      ({ r with data := shiftIn d r.data [w], bitpos := r.bitpos + 1#7 }, true) := by
  rcases storeBit_cases d w r with ⟨hfull, -⟩ | ⟨-, heq⟩
  · rw [hr] at hfull
    exact absurd hlt (not_lt.mpr hfull)
  · exact heq

/-! ### A tick within a frame that is not Manchester (R140, R146) -/

theorem decSample_of_receivingBits {s : State} (hs : s.decState = .receivingBits)
    (hman : s.cand.isManchester = false) (m : Bool) : decSample m s = bitTick m s.cand s := by
  rw [decSample, hs]
  exact if_neg (Bool.eq_false_iff.mp hman)

theorem decSample_of_stopBitExpected {s : State} (hs : s.decState = .stopBitExpected)
    (hman : s.cand.isManchester = false) (m : Bool) : decSample m s = stopTick m s.cand s := by
  rw [decSample, hs]
  exact if_neg (Bool.eq_false_iff.mp hman)

theorem exec_tick_of_receivingBits {s : State} (hg : s.Good) (hl : s.Listening)
    (hs : s.decState = .receivingBits) (hman : s.cand.isManchester = false) (m : Bool) :
    exec (.tick (s.sample m)) s = .next (bitTick m s.cand (countRep s)).finish := by
  obtain ⟨hd, -⟩ := (inv_iff s).mp hg.2
  rw [exec_tick_of_listening hl (decFault_eq_none hd),
    decSample_of_receivingBits (s := countRep s) hs hman]
  rfl

theorem exec_tick_of_bitMark {s : State} (hg : s.Good) (hl : s.Listening)
    (hs : s.decState = .receivingBits) (hman : s.cand.isManchester = false)
    (hmark : s.dec.waitSpace = false) (m : Bool) :
    exec (.tick (s.sample m)) s = .next
      (if m then bitMarkOn s.cand (countRep s) else bitMarkEnd s.cand (countRep s)).finish := by
  rw [exec_tick_of_receivingBits hg hl hs hman, bitTick, countRep_dec,
    if_neg (Bool.eq_false_iff.mp hmark)]

theorem exec_tick_of_bitSpace {s : State} (hg : s.Good) (hl : s.Listening)
    (hs : s.decState = .receivingBits) (hman : s.cand.isManchester = false)
    (hspace : s.dec.waitSpace = true) (m : Bool) :
    exec (.tick (s.sample m)) s = .next
      (if m then bitSpaceEnd s.cand (countRep s) else bitSpaceOn s.cand (countRep s)).finish := by
  rw [exec_tick_of_receivingBits hg hl hs hman, bitTick, countRep_dec, if_pos hspace]

/-- STOP_BIT_EXPECTED is no state of a Manchester record (R21, R97 W7). -/
theorem exec_tick_of_stopBitExpected {s : State} (hg : s.Good) (hl : s.Listening)
    (hs : s.decState = .stopBitExpected) (m : Bool) :
    exec (.tick (s.sample m)) s = .next (stopTick m s.cand (countRep s)).finish := by
  obtain ⟨hd, -⟩ := (inv_iff s).mp hg.2
  have hman := (hg.cand_wf (.inr hs)).not_manchester_of_hasStop (hasStop_of_stopBitExpected hs)
  rw [exec_tick_of_listening hl (decFault_eq_none hd),
    decSample_of_stopBitExpected (s := countRep s) hs hman]
  rfl

/-- A tick that abandons leaves the cleared frame registers (R114). -/
theorem finish_abandon_countRep (s : State) :
    (abandon (countRep s)).finish = s.rxNone .cleared := finish_quiet_countRep s .cleared

/-- A tick that abandons with a mark counts that mark anew (R114). -/
theorem finish_abandonRestart_countRep (s : State) :
    (abandonRestart (countRep s)).finish = s.rxNone .restarted :=
  finish_quiet_countRep s .restarted

/-- A tick that writes the frame registers where a test of the model holds, and abandons where it does
not, as a next state under the condition that the test decides. -/
theorem finish_quiet_or_abandon (s : State) (r : DecRegs) {b : Bool} {p : Prop} [Decidable p]
    (h : b = true ↔ p) :
    (if b then quiet { countRep s with dec := r } else abandon (countRep s)).finish =
      s.rxNone (if p then r else .cleared) := by
  by_cases hp : p
  · rw [if_pos (h.mpr hp), if_pos hp]
    exact finish_quiet_countRep s r
  · rw [if_neg (h.not.mpr hp), if_neg hp]
    exact finish_abandon_countRep s

/-! ### The mark of a data bit (R141, R142) -/

/-- A mark that ends must fit the mark of a 1 or of a 0 (R142). -/
theorem within_p1Pulse_or_p0Pulse_iff (d : Desc) (p : Half) :
    (within p d.p1Pulse || within p d.p0Pulse) = true ↔ d.p1Pulse.Has p ∨ d.p0Pulse.Has p := by
  simp only [Bool.or_eq_true, within_iff_has]

/-- Settles O41: R141's rule for a mark sample and R142's for a space sample. -/
theorem dataMarkMeasured : Obligations.DataMarkMeasured := by
  intro s hg hl hs hman hmark
  constructor
  · rw [exec_tick_of_bitMark hg hl hs hman hmark, if_pos rfl]
    exact congrArg _ (finish_quiet_or_abandon s _ (atMost_iff _ _))
  · rw [exec_tick_of_bitMark hg hl hs hman hmark, if_neg Bool.false_ne_true]
    exact congrArg _ (finish_quiet_or_abandon s _ (within_p1Pulse_or_p0Pulse_iff _ _))

/-! ### The end of a bit's space (R144) -/

/-- The pair of mark and space fits a bit with the wire value `w` (R144). -/
abbrev BitFits (d : Desc) (w : Bool) (p q : Half) : Prop :=
  if w then d.p1Pulse.Has p ∧ d.p1Pause.Has q else d.p0Pulse.Has p ∧ d.p0Pause.Has q

/-- The pair of a 1 is tried before the pair of a 0 (R144). -/
theorem bitValue_eq (d : Desc) (p q : Half) :
    bitValue d p q = if BitFits d true p q then some true
      else if BitFits d false p q then some false else none := by
  simp only [bitValue, BitFits, Bool.and_eq_true, within_iff_has, if_true, Bool.false_eq_true,
    if_false]

/-- The bits differ in their marks for pulse length (R97 W8), in their spaces for pulse distance (W9). -/
theorem not_bitFits_true_of_false {d : Desc} {p q : Half} (hd : d.WF)
    (hman : d.isManchester = false) (h : BitFits d false p q) : ¬ BitFits d true p q := by
  obtain ⟨-, -, -, -, -, -, -, w8, w9, -⟩ := (Desc.wf_iff d).mp hd
  obtain ⟨hpulse0, hpause0⟩ := h
  rintro ⟨hpulse1, hpause1⟩
  cases hlen : d.pulseLength with
  | true =>
    obtain ⟨-, hdisj, -⟩ := w8 hman hlen
    omega
  | false =>
    obtain ⟨-, hdisj, -⟩ := w9 hman hlen
    omega

theorem bitValue_of_bitFits {d : Desc} {w : Bool} {p q : Half} (hd : d.WF)
    (hman : d.isManchester = false) (h : BitFits d w p q) : bitValue d p q = some w := by
  cases w with
  | true => rw [bitValue_eq, if_pos h]
  | false => rw [bitValue_eq, if_neg (not_bitFits_true_of_false hd hman h), if_pos h]

theorem bitValue_of_not_bitFits {d : Desc} {p q : Half} (h1 : ¬ BitFits d true p q)
    (h0 : ¬ BitFits d false p q) : bitValue d p q = none := by
  rw [bitValue_eq, if_neg h1, if_neg h0]

/-- Settles O42: W8 and W9 leave one pair that fits, there is a bit to come, and storing it fills a
frame without stop bit exactly at its last bit. -/
theorem dataBitStored : Obligations.DataBitStored := by
  intro s hg hl hs hman hspace
  rw [exec_tick_of_bitSpace hg hl hs hman hspace, if_pos rfl, bitSpaceEnd, countRep_dec]
  have hd := hg.cand_wf (.inl hs)
  refine ⟨fun w hfits => ?_, fun h1 h0 => ?_⟩
  · have hlt := hg.bitpos_lt_nbits hs hman
    have hinc := bitpos_add_one_toInt (hg.receiving (.inl hs)).bitpos_nonneg hd.nbits_le hlt
    rw [bitValue_of_bitFits hd hman hfits]
    simp only [storeBit_of_lt (hg.rpt_of_receivingBits hs) hlt, hinc, Bool.and_eq_true,
      decide_eq_true_eq, Bool.not_eq_true']
    split
    · exact congrArg _ (finish_abandonRestart_countRep s)
    · exact congrArg _ (finish_quiet_countRep s _)
  · rw [bitValue_of_not_bitFits h1 h0]
    exact congrArg _ (finish_abandonRestart_countRep s)

/-! ### COMPLETE as a next state (R180 to R186) -/

/-- The `REP` flag of a full frame, condition by condition (R185). -/
theorem repeatFlag_eq (d : Desc) (r : RepRegs) (a : BitVec 16) (c : BitVec 32) :
    repeatFlag d r a c = decide (d.hasRpt = false ∧ r.lastValid = true ∧ r.lastProto = d.id ∧
      r.lastAddr = a ∧ r.lastCmd = c ∧ r.timer.toNat ≤ d.repWindow.toNat) := by
  rw [Bool.eq_iff_iff]
  simp only [repeatFlag, Bool.and_eq_true, Bool.not_eq_true', beq_iff_eq, decide_eq_true_eq,
    and_assoc]

theorem repeatCodeFits_iff (d : Desc) (r : RepRegs) :
    repeatCodeFits d r = true ↔
      r.lastValid = true ∧ r.lastProto = d.id ∧ r.timer.toNat ≤ d.repWindow.toNat := by
  simp only [repeatCodeFits, Bool.and_eq_true, beq_iff_eq, decide_eq_true_eq, and_assoc]

/-- The response of a decoder tick with a record: its fields, `data_complete` and `REP` (R92). -/
theorem tickResponse_record (p : BitVec 8) (a : BitVec 16) (c : BitVec 32) (done rep : Bool) :
    tickResponse (some ⟨p, a, c, 0#3 ++ BitVec.ofBool rep⟩) done false =
      0x0#4 ++ p ++ a ++ c ++ (0#1 ++ BitVec.ofBool done ++ 0#1 ++ BitVec.ofBool rep) := by
  have hlow : BitVec.ofBool false ++ BitVec.ofBool done ++
      (0#3 ++ BitVec.ofBool rep).extractLsb' 0 2 =
        0#1 ++ BitVec.ofBool done ++ 0#1 ++ BitVec.ofBool rep := by
    cases done <;> cases rep <;> rfl
  simp only [tickResponse, response, hlow, Status.code, BitVec.append_assoc, BitVec.cast_eq]

/-- The record of a full frame is the result that the statements name (R180, R185). -/
theorem fullRecord_countRep (d : Desc) (s : State) (r : DecRegs) :
    fullRecord d { countRep s with dec := r } = (s.afterFullFrame d r.data).res := by
  have hflags : ∀ b : Bool, (if b then 1#4 else 0#4) = 0#3 ++ BitVec.ofBool b := by decide
  simp only [fullRecord, repeatFlag_eq, hflags]
  rfl

theorem finish_complete_fullFrame (s : State) {r : DecRegs} (hr : r.rpt = false) :
    (complete { countRep s with dec := r }).finish =
      s.afterFullFrame (s.cfg.desc r.candIdx.toNat) r.data := by
  have hcand : State.cand { countRep s with dec := r } = s.cfg.desc r.candIdx.toNat := rfl
  rcases complete_cases { countRep s with dec := r } with ⟨hrpt, -⟩ | ⟨hrpt, -⟩ | ⟨-, heq⟩
  · exact absurd (hr.symm.trans hrpt) (by decide)
  · exact absurd (hr.symm.trans hrpt) (by decide)
  · rw [heq, hcand, fullRecord_countRep]
    simp only [TickOut.finish, State.afterFullFrame, tickResponse_record]
    rfl

theorem finish_complete_repeatCode (s : State) {r : DecRegs} (hr : r.rpt = true) :
    (complete { countRep s with dec := r }).finish =
      if s.rep.lastValid = true ∧ s.rep.lastProto = (s.cfg.desc r.candIdx.toNat).id ∧
          (satInc s.rep.timer).toNat ≤ (s.cfg.desc r.candIdx.toNat).repWindow.toNat then
        s.afterRepeatCode
      else s.rxNone .cleared := by
  rcases complete_cases { countRep s with dec := r } with
    ⟨-, hno, heq⟩ | ⟨-, hfits, heq⟩ | ⟨hrpt, -⟩
  · rw [heq]
    split
    · exact absurd ((repeatCodeFits_iff _ _).mpr ‹_›) (Bool.eq_false_iff.mp hno)
    · exact finish_quiet_countRep s .cleared
  · rw [heq]
    split
    · exact congrArg (fun w => { s.afterRepeatCode with resp := some w })
        (tickResponse_record s.rep.lastProto s.rep.lastAddr s.rep.lastCmd s.cbEn true)
    · exact absurd ((repeatCodeFits_iff _ _).mp hfits) ‹_›
  · exact absurd (hrpt.symm.trans hr) (by decide)

/-! ### The space of a data bit (R143) -/

/-- The tests of R143, window by window. -/
theorem bitSpaceOn_eq (d : Desc) (s : State) :
    bitSpaceOn d s =
      if (d.p1Pulse.Has s.dec.pulseTime ∧
            ((satInc s.dec.pauseTime).toNat : Int) ≤ d.p1Pause.max) ∨
          (d.p0Pulse.Has s.dec.pulseTime ∧
            ((satInc s.dec.pauseTime).toNat : Int) ≤ d.p0Pause.max) then
        quiet { s with dec := { s.dec with pauseTime := satInc s.dec.pauseTime } }
      else if s.dec.bitpos.toInt = (d.nbits : Int) - 1 ∧ d.hasStop = false then
        complete { s with dec := (storeBit d (decide (d.p1Pulse.Has s.dec.pulseTime))
          { s.dec with pauseTime := satInc s.dec.pauseTime }).1 }
      else abandon s := by
  simp only [bitSpaceOn, within_eq_decide_has, Bool.or_eq_true, Bool.and_eq_true,
    decide_eq_true_eq, atMost_iff, Bool.not_eq_true']

/-- Settles O43: the chain of R143; the last bit of a frame without stop bit is stored and completes
a full frame. -/
theorem dataSpaceMeasured : Obligations.DataSpaceMeasured := by
  intro s hg hl hs hman hspace
  rw [exec_tick_of_bitSpace hg hl hs hman hspace, if_neg Bool.false_ne_true, bitSpaceOn_eq,
    countRep_dec]
  split
  · exact congrArg _ (finish_quiet_countRep s _)
  · split
    · have hrpt := hg.rpt_of_receivingBits hs
      rw [storeBit_of_lt (r := { s.dec with pauseTime := satInc s.dec.pauseTime }) hrpt
        (hg.bitpos_lt_nbits hs hman)]
      exact congrArg _ (finish_complete_fullFrame s hrpt)
    · exact congrArg _ (finish_abandon_countRep s)

/-! ### The stop mark (R146, R147) -/

/-- A stop mark that ends within its window completes the frame (R146). -/
theorem stopTick_space_of_has {d : Desc} {s : State} (h : d.p0Pulse.Has s.dec.pulseTime) :
    stopTick false d s = complete s := if_pos ((within_iff_has _ _).mpr h)

theorem stopTick_space_of_not_has {d : Desc} {s : State} (h : ¬ d.p0Pulse.Has s.dec.pulseTime) :
    stopTick false d s = abandon s := if_neg ((within_iff_has _ _).not.mpr h)

/-- Settles O44: R146's rules for the stop mark, with COMPLETE as `finish_complete_fullFrame` and
`finish_complete_repeatCode` state it. -/
theorem stopMarkCompletes : Obligations.StopMarkCompletes := by
  intro s hg hl hs
  rw [exec_tick_of_stopBitExpected hg hl hs, exec_tick_of_stopBitExpected hg hl hs]
  refine ⟨?_, fun hout => ?_, fun hfits hrpt => ?_, fun hfits hrpt => ?_⟩
  · exact congrArg _ (finish_quiet_or_abandon s _ (atMost_iff _ _))
  · rw [stopTick_space_of_not_has (s := countRep s) hout]
    exact congrArg _ (finish_abandon_countRep s)
  · rw [stopTick_space_of_has (s := countRep s) hfits]
    exact congrArg _ (finish_complete_fullFrame s hrpt)
  · rw [stopTick_space_of_has (s := countRep s) hfits]
    exact congrArg _ (finish_complete_repeatCode s hrpt)

end Sys2Proof.Machine

namespace Sys2Proof.Machine

/-! ## Manchester data bits (42_decoder_manchester.md) -/

/-! ### A tick within a Manchester frame (R161) -/

theorem decSample_of_manchester {s : State} (hs : s.decState = .receivingBits)
    (hman : s.cand.isManchester = true) (m : Bool) : decSample m s = manTick m s.cand s := by
  rw [decSample, hs]
  exact if_pos hman

theorem exec_tick_of_manchester {s : State} (hg : s.Good) (hl : s.Listening)
    (hs : s.decState = .receivingBits) (hman : s.cand.isManchester = true) (m : Bool) :
    exec (.tick (s.sample m)) s = .next (manTick m s.cand (countRep s)).finish := by
  obtain ⟨hd, -⟩ := (inv_iff s).mp hg.2
  rw [exec_tick_of_listening hl (decFault_eq_none hd),
    decSample_of_manchester (s := countRep s) hs hman]
  rfl

theorem exec_tick_of_manMark {s : State} (hg : s.Good) (hl : s.Listening)
    (hs : s.decState = .receivingBits) (hman : s.cand.isManchester = true)
    (hmark : s.dec.waitSpace = false) (m : Bool) :
    exec (.tick (s.sample m)) s = .next
      (if m then manMarkOn s.cand (countRep s) else manMarkEnd s.cand (countRep s)).finish := by
  rw [exec_tick_of_manchester hg hl hs hman, manTick, countRep_dec,
    if_neg (Bool.eq_false_iff.mp hmark)]

theorem exec_tick_of_manSpace {s : State} (hg : s.Good) (hl : s.Listening)
    (hs : s.decState = .receivingBits) (hman : s.cand.isManchester = true)
    (hspace : s.dec.waitSpace = true) (m : Bool) :
    exec (.tick (s.sample m)) s = .next
      (if m then manPair s.cand (countRep s) else manSpaceOn s.cand (countRep s)).finish := by
  rw [exec_tick_of_manchester hg hl hs hman, manTick, countRep_dec, if_pos hspace]

/-! ### The mark (R162, R163) -/

/-- A mark that ends must be one half bit, or from mid-bit two (R163). -/
theorem inS_or_mid_inL_iff (d : Desc) (mid : Bool) (p : Half) :
    (d.inS p || (mid && d.inL p)) = true ↔ Short d p ∨ (mid = true ∧ Long d p) := by
  simp only [Bool.or_eq_true, Bool.and_eq_true, Desc.inS_iff, Desc.inL_iff]

/-- Settles O45: R162's rule for a mark sample and R163's for a space sample. -/
theorem manchesterMarkMeasured : Obligations.ManchesterMarkMeasured := by
  intro s hg hl hs hman hmark
  constructor
  · rw [exec_tick_of_manMark hg hl hs hman hmark, if_pos rfl]
    exact congrArg _ (finish_quiet_or_abandon s _ (atMost_iff _ _))
  · rw [exec_tick_of_manMark hg hl hs hman hmark, if_neg Bool.false_ne_true]
    exact congrArg _ (finish_quiet_or_abandon s _ (inS_or_mid_inL_iff _ _ _))

/-! ### Storing the bits of a segment (R123, R166) -/

/-- A full frame of `d` is being received in `r`, with no more bits than it has (R26, R51 I5). -/
structure DataFrame (d : Desc) (r : DecRegs) : Prop where
  rpt : r.rpt = false
  bitpos_nonneg : 0 ≤ r.bitpos.toInt
  bitpos_le : r.bitpos.toInt ≤ (d.nbits : Int)
  nbits_le : d.nbits ≤ 32

theorem State.Good.dataFrame {s : State} (hg : s.Good) (hs : s.decState = .receivingBits) :
    DataFrame s.cand s.dec := by
  have hrec := hg.receiving (.inl hs)
  have hrpt := hg.rpt_of_receivingBits hs
  obtain ⟨-, hle⟩ := hrec.bitpos_bounds hrec.candidate
  simp only [hrpt, Bool.false_eq_true, if_false] at hle
  exact ⟨hrpt, hrec.bitpos_nonneg, hle, (hg.cand_wf (.inl hs)).nbits_le⟩

/-- The frame registers with the wire bits `ws`, oldest first, stored in them. -/
def DecRegs.storing (d : Desc) (ws : List Bool) (r : DecRegs) : DecRegs :=
  { r with data := shiftIn d r.data ws, bitpos := r.bitpos + BitVec.ofNat 7 ws.length }

theorem DecRegs.storing_nil (d : Desc) (r : DecRegs) : r.storing d [] = r :=
  congrArg (fun b => { r with bitpos := b }) (BitVec.add_zero r.bitpos)

theorem DecRegs.storing_append (d : Desc) (ws ws' : List Bool) (r : DecRegs) :
    (r.storing d ws).storing d ws' = r.storing d (ws ++ ws') := by
  simp only [DecRegs.storing, shiftIn, List.foldl_append, List.length_append, BitVec.ofNat_add,
    BitVec.add_assoc]

/-- Storing bits that the frame has room for does not wrap the count. -/
theorem DataFrame.bitpos_storing {d : Desc} {r : DecRegs} (h : DataFrame d r) {ws : List Bool}
    (hfits : r.bitpos.toInt + ws.length ≤ (d.nbits : Int)) :
    (r.storing d ws).bitpos.toInt = r.bitpos.toInt + ws.length := by
  obtain ⟨-, hnonneg, -, hmax⟩ := h
  have := r.bitpos.isLt
  simp only [DecRegs.storing, BitVec.toInt_eq_toNat_cond, BitVec.toNat_add, BitVec.toNat_ofNat] at *
  omega

theorem DataFrame.storing {d : Desc} {r : DecRegs} (h : DataFrame d r) {ws : List Bool}
    (hfits : r.bitpos.toInt + ws.length ≤ (d.nbits : Int)) : DataFrame d (r.storing d ws) := by
  have hpos := h.bitpos_storing hfits
  refine ⟨h.rpt, ?_, hpos ▸ hfits, h.nbits_le⟩
  rw [hpos]
  exact add_nonneg h.bitpos_nonneg (Int.natCast_nonneg _)

/-- The walk over the bit grid that stores `ws` and ends at the position `mid`; `none` on overflow. -/
def storeBits (d : Desc) (ws : List Bool) (mid : Bool) (r : DecRegs) : Option (DecRegs × Bool) :=
  if r.bitpos.toInt + ws.length ≤ (d.nbits : Int) then some (r.storing d ws, mid) else none

theorem DataFrame.storeBits_nil {d : Desc} {r : DecRegs} (h : DataFrame d r) (mid : Bool) :
    storeBits d [] mid r = some (r, mid) := by
  rw [storeBits, if_pos (by simpa using h.bitpos_le), DecRegs.storing_nil]

/-- A bit stored in mid-bit is a walk of one bit. -/
theorem DataFrame.storeMid_eq {d : Desc} {r : DecRegs} (h : DataFrame d r) (w : Bool) :
    storeMid d w r = storeBits d [w] true r := by
  unfold storeMid storeBits
  have hroom : r.bitpos.toInt + [w].length ≤ (d.nbits : Int) ↔ r.bitpos.toInt < (d.nbits : Int) :=
    Int.add_one_le_iff
  rcases storeBit_cases d w r with ⟨hfull, heq⟩ | ⟨hlt, heq⟩
  · rw [h.rpt] at hfull
    rw [heq, if_neg Bool.false_ne_true, if_neg (hroom.not.mpr (not_lt.mpr hfull))]
  · rw [h.rpt] at hlt
    rw [heq, if_pos rfl, if_pos (hroom.mpr hlt)]
    rfl

/-! ### One segment walks the bit grid (R166) -/

/-- A segment at the level `w` (a mark, or a space) that lasts `v` goes from the grid position `mid` to
`mid'` and passes the first halves of the bits `ws`: a bit whose first half is at the level `w` has the
wire value `w` (R160). -/
inductive Segment (d : Desc) (w : Bool) (v : Half) : Bool → List Bool → Bool → Prop where
  | shortFromBoundary (h : Short d v) : Segment d w v false [w] true
  | shortFromMid (h : Short d v) : Segment d w v true [] false
  | longFromMid (h : Long d v) : Segment d w v true [w] true

/-- What R166 does for the mark and for the space alike: the registers and the grid position after a
segment at the level `w` that lasts `v`. -/
def walkSegment (d : Desc) (w mid : Bool) (v : Half) (r : DecRegs) : Option (DecRegs × Bool) :=
  if mid then
    if d.inS v then some (r, false) else if d.inL v then storeMid d w r else none
  else if d.inS v then storeMid d w r else none

theorem manMark_eq_walkSegment (d : Desc) (r : DecRegs) :
    manMark d r = walkSegment d true r.manMid r.pulseTime r := by
  unfold manMark walkSegment
  cases r.manMid <;> rfl

theorem manSpace_eq_walkSegment (d : Desc) (mid : Bool) (r : DecRegs) :
    manSpace d mid r = walkSegment d false mid r.pauseTime r := rfl

/-- One half bit is shorter than two (R97 W7). -/
theorem not_short_of_long {d : Desc} {v : Half} (hd : d.WF) (hman : d.isManchester = true)
    (h : Long d v) : ¬ Short d v := by
  obtain ⟨-, -, -, -, -, -, w7, -⟩ := (Desc.wf_iff d).mp hd
  obtain ⟨-, -, -, -, -, hdisj, -⟩ := w7 hman
  rintro ⟨-, hshort⟩
  omega

theorem walkSegment_of_segment {d : Desc} {w mid mid' : Bool} {v : Half} {ws : List Bool}
    {r : DecRegs} (hd : d.WF) (hman : d.isManchester = true) (hr : DataFrame d r)
    (h : Segment d w v mid ws mid') : walkSegment d w mid v r = storeBits d ws mid' r := by
  cases h with
  | shortFromBoundary hv =>
    rw [← hr.storeMid_eq, walkSegment, if_neg Bool.false_ne_true, if_pos ((d.inS_iff v).mpr hv)]
  | shortFromMid hv =>
    rw [hr.storeBits_nil, walkSegment, if_pos rfl, if_pos ((d.inS_iff v).mpr hv)]
  | longFromMid hv =>
    rw [← hr.storeMid_eq, walkSegment, if_pos rfl,
      if_neg ((d.inS_iff v).not.mpr (not_short_of_long hd hman hv)), if_pos ((d.inL_iff v).mpr hv)]

/-- A segment that is none of the three fails. -/
theorem walkSegment_eq_none {d : Desc} {w mid : Bool} {v : Half}
    (h : ∀ ws mid', ¬ Segment d w v mid ws mid') (r : DecRegs) : walkSegment d w mid v r = none := by
  cases mid with
  | false =>
    have hshort : ¬ Short d v := fun hv => h _ _ (.shortFromBoundary hv)
    rw [walkSegment, if_neg Bool.false_ne_true, if_neg ((d.inS_iff v).not.mpr hshort)]
  | true =>
    have hshort : ¬ Short d v := fun hv => h _ _ (.shortFromMid hv)
    have hlong : ¬ Long d v := fun hv => h _ _ (.longFromMid hv)
    rw [walkSegment, if_pos rfl, if_neg ((d.inS_iff v).not.mpr hshort),
      if_neg ((d.inL_iff v).not.mpr hlong)]

theorem manMark_of_segment {d : Desc} {mid : Bool} {ws : List Bool} {r : DecRegs} (hd : d.WF)
    (hman : d.isManchester = true) (hr : DataFrame d r)
    (h : Segment d true r.pulseTime r.manMid ws mid) : manMark d r = storeBits d ws mid r := by
  rw [manMark_eq_walkSegment, walkSegment_of_segment hd hman hr h]

theorem manMark_eq_none {d : Desc} {r : DecRegs}
    (h : ∀ ws mid, ¬ Segment d true r.pulseTime r.manMid ws mid) : manMark d r = none := by
  rw [manMark_eq_walkSegment, walkSegment_eq_none h]

/-! ### A pair of mark and space (R165, R166) -/

/-- The mark and then the space of a pair walk the bit grid. -/
def walkPair (d : Desc) (r : DecRegs) : Option (DecRegs × Bool) :=
  (manMark d r).bind fun x => manSpace d x.2 x.1

theorem manPair_of_walkPair_eq_none {d : Desc} {s : State} (h : walkPair d s.dec = none) :
    manPair d s = abandonRestart s := by
  unfold manPair
  cases hmark : manMark d s.dec with
  | none => rfl
  | some x =>
    rw [walkPair, hmark, Option.bind_some] at h
    simp only [h]

theorem manPair_of_walkPair_eq_some {d : Desc} {s : State} {r : DecRegs} {mid : Bool}
    (h : walkPair d s.dec = some (r, mid)) :
    manPair d s = quiet { s with dec :=
      { r with manMid := mid, pulseTime := 1#16, pauseTime := 0#16, waitSpace := false } } := by
  unfold manPair
  cases hmark : manMark d s.dec with
  | none =>
    rw [walkPair, hmark] at h
    cases h
  | some x =>
    rw [walkPair, hmark, Option.bind_some] at h
    simp only [h]

/-- The space goes on from where the mark ended, and the pair stores the bits of both. -/
theorem walkPair_of_segments {d : Desc} {mid mid' : Bool} {ws ws' : List Bool} {r : DecRegs}
    (hd : d.WF) (hman : d.isManchester = true) (hr : DataFrame d r)
    (hmark : Segment d true r.pulseTime r.manMid ws mid)
    (hspace : Segment d false r.pauseTime mid ws' mid') :
    walkPair d r = storeBits d (ws ++ ws') mid' r := by
  rw [walkPair, manMark_of_segment hd hman hr hmark, storeBits, storeBits]
  have hlen : ((ws ++ ws').length : Int) = ws.length + ws'.length := by simp
  by_cases hfits : r.bitpos.toInt + ws.length ≤ (d.nbits : Int)
  · have hwalk : manSpace d mid (r.storing d ws) = storeBits d ws' mid' (r.storing d ws) :=
      walkSegment_of_segment hd hman (hr.storing hfits) hspace
    rw [if_pos hfits, Option.bind_some, hwalk, storeBits, hr.bitpos_storing hfits,
      DecRegs.storing_append, hlen, add_assoc]
  · rw [if_neg hfits, if_neg (by omega), Option.bind_none]

/-- A pair whose mark or whose space is no segment of the grid fails. -/
theorem walkPair_eq_none {d : Desc} {r : DecRegs} (hd : d.WF) (hman : d.isManchester = true)
    (hr : DataFrame d r)
    (h : ∀ ws mid ws' mid', Segment d true r.pulseTime r.manMid ws mid →
      ¬ Segment d false r.pauseTime mid ws' mid') : walkPair d r = none := by
  by_cases hmark : ∃ ws mid, Segment d true r.pulseTime r.manMid ws mid
  · obtain ⟨ws, mid, hmark⟩ := hmark
    rw [walkPair, manMark_of_segment hd hman hr hmark, storeBits]
    split
    · exact walkSegment_eq_none (fun ws' mid' => h ws mid ws' mid' hmark) _
    · rfl
  · rw [walkPair, manMark_eq_none fun ws mid hm => hmark ⟨ws, mid, hm⟩, Option.bind_none]

/-- A pair of two segments stores their bits and starts the next mark, or overflows and abandons. -/
theorem exec_tick_of_segments {s : State} {mid mid' : Bool} {ws ws' : List Bool} (hg : s.Good)
    (hl : s.Listening) (hs : s.decState = .receivingBits) (hman : s.cand.isManchester = true)
    (hspace : s.dec.waitSpace = true)
    (hp : Segment s.cand true s.dec.pulseTime s.dec.manMid ws mid)
    (hq : Segment s.cand false s.dec.pauseTime mid ws' mid') :
    exec (.tick (s.sample true)) s = .next (s.rxNone
      (if s.dec.bitpos.toInt + (ws ++ ws').length ≤ (s.cand.nbits : Int) then
        { s.dec with data := shiftIn s.cand s.dec.data (ws ++ ws'),
                     bitpos := s.dec.bitpos + BitVec.ofNat 7 (ws ++ ws').length, manMid := mid',
                     pulseTime := 1#16, pauseTime := 0#16, waitSpace := false }
       else .restarted)) := by
  rw [exec_tick_of_manSpace hg hl hs hman hspace, if_pos rfl]
  have hwalk := walkPair_of_segments (hg.cand_wf (.inl hs)) hman (hg.dataFrame hs) hp hq
  unfold storeBits at hwalk
  split at hwalk
  · rw [if_pos ‹_›, manPair_of_walkPair_eq_some (s := countRep s) hwalk]
    exact congrArg _ (finish_quiet_countRep s _)
  · rw [if_neg ‹_›, manPair_of_walkPair_eq_none (s := countRep s) hwalk]
    exact congrArg _ (finish_abandonRestart_countRep s)

/-- Settles O46: the five pairs are the ways in which two segments follow each other in the grid. -/
theorem manchesterPairStores : Obligations.ManchesterPairStores := by
  intro s hg hl hs hman hspace
  refine ⟨fun bits mid hpair => ?_, fun hnone => ?_⟩
  · have stores {mid₁ mid₂ : Bool} {ws ws' : List Bool}
        (hp : Segment s.cand true s.dec.pulseTime s.dec.manMid ws mid₁)
        (hq : Segment s.cand false s.dec.pauseTime mid₁ ws' mid₂) :=
      exec_tick_of_segments hg hl hs hman hspace hp hq
    rcases hpair with ⟨hm, hp, hq, rfl, rfl⟩ | ⟨hm, hp, hq, rfl, rfl⟩ | ⟨hm, hp, hq, rfl, rfl⟩ |
      ⟨hm, hp, hq, rfl, rfl⟩ | ⟨hm, hp, hq, rfl, rfl⟩ <;> rw [hm] at stores
    · exact stores (.shortFromBoundary hp) (.shortFromMid hq)
    · exact stores (.shortFromBoundary hp) (.longFromMid hq)
    · exact stores (.shortFromMid hp) (.shortFromBoundary hq)
    · exact stores (.longFromMid hp) (.shortFromMid hq)
    · exact stores (.longFromMid hp) (.longFromMid hq)
  · have hwalk : walkPair s.cand s.dec = none := by
      refine walkPair_eq_none (hg.cand_wf (.inl hs)) hman (hg.dataFrame hs)
        fun ws mid ws' mid' hp hq => ?_
      generalize s.dec.manMid = start at hp hnone
      cases hp with
      | shortFromBoundary hp =>
        cases hq with
        | shortFromMid hq => simp [hp, hq] at hnone
        | longFromMid hq => simp [hp, hq] at hnone
      | shortFromMid hp =>
        cases hq with
        | shortFromBoundary hq => simp [hp, hq] at hnone
      | longFromMid hp =>
        cases hq with
        | shortFromMid hq => simp [hp, hq] at hnone
        | longFromMid hq => simp [hp, hq] at hnone
    rw [exec_tick_of_manSpace hg hl hs hman hspace, if_pos rfl,
      manPair_of_walkPair_eq_none (s := countRep s) hwalk]
    exact congrArg _ (finish_abandonRestart_countRep s)

/-! ### The space, and the virtual tick (R164, R166) -/

/-- The space is counted, or the tick that exceeds two half bits is the virtual tick (R164). -/
theorem manSpaceOn_eq (d : Desc) (s : State) :
    manSpaceOn d s =
      if ((satInc s.dec.pauseTime).toNat : Int) ≤ 2 * d.p1Pulse.max then
        quiet { s with dec := { s.dec with pauseTime := satInc s.dec.pauseTime } }
      else manPairVirtual d { s with dec := { s.dec with pauseTime := satInc s.dec.pauseTime } } := by
  simp only [manSpaceOn, atMost_iff]

theorem manPairVirtual_of_manMark_eq_none {d : Desc} {s : State} (h : manMark d s.dec = none) :
    manPairVirtual d s = abandon s := by
  simp only [manPairVirtual, h]

theorem manPairVirtual_of_manMark_eq_some {d : Desc} {s : State} {r : DecRegs} {mid : Bool}
    (h : manMark d s.dec = some (r, mid)) :
    manPairVirtual d s =
      if r.bitpos.toInt = (d.nbits : Int) then complete { s with dec := r } else abandon s := by
  simp only [manPairVirtual, h]

/-- The last mark stores its bits, and the frame completes when they fill it exactly (R166). -/
theorem finish_manPairVirtual_of_segment {s : State} {r : DecRegs} {ws : List Bool} {mid : Bool}
    (hd : s.cand.WF) (hman : s.cand.isManchester = true) (hr : DataFrame s.cand r)
    (hidx : r.candIdx = s.dec.candIdx)
    (h : Segment s.cand true r.pulseTime r.manMid ws mid) :
    (manPairVirtual s.cand { countRep s with dec := r }).finish =
      if r.bitpos.toInt + ws.length = (s.cand.nbits : Int) then
        s.afterFullFrame s.cand (shiftIn s.cand r.data ws)
      else s.rxNone .cleared := by
  have hmark := manMark_of_segment hd hman hr h
  have hcand : s.cfg.desc (r.storing s.cand ws).candIdx.toNat = s.cand :=
    congrArg (fun i => s.cfg.desc i.toNat) hidx
  by_cases hfits : r.bitpos.toInt + ws.length ≤ (s.cand.nbits : Int)
  · rw [storeBits, if_pos hfits] at hmark
    rw [manPairVirtual_of_manMark_eq_some (s := { countRep s with dec := r }) hmark,
      hr.bitpos_storing hfits]
    split
    · have hrpt : (r.storing s.cand ws).rpt = false := hr.rpt
      exact (finish_complete_fullFrame s hrpt).trans (by rw [hcand]; rfl)
    · exact finish_abandon_countRep s
  · rw [storeBits, if_neg hfits] at hmark
    rw [manPairVirtual_of_manMark_eq_none (s := { countRep s with dec := r }) hmark,
      if_neg (fun heq => hfits heq.le)]
    exact finish_abandon_countRep s

/-- What the virtual tick makes of the mark before it, of length `p` from the grid position `mid`, when
`n` bits are stored: `full ws` with the bits `ws` still to store from it, or `fail` (R166). -/
abbrev virtualOutcome {α : Type} (d : Desc) (mid : Bool) (p : Half) (n : Int)
    (full : List Bool → α) (fail : α) : α :=
  if mid = true ∧ Short d p ∧ n = (d.nbits : Int) then full []
  else if (if mid then Long d p else Short d p) ∧ n + 1 = (d.nbits : Int) then full [true]
  else fail

theorem virtualOutcome_of_segment {α : Type} {d : Desc} {mid mid' : Bool} {p : Half} {ws : List Bool}
    (hd : d.WF) (hman : d.isManchester = true) (h : Segment d true p mid ws mid') (n : Int)
    (full : List Bool → α) (fail : α) :
    virtualOutcome d mid p n full fail =
      if n + ws.length = (d.nbits : Int) then full ws else fail := by
  cases h with
  | shortFromBoundary hp => simp [virtualOutcome, and_iff_right hp]
  | shortFromMid hp =>
    have hlong : ¬ Long d p := fun hl => not_short_of_long hd hman hl hp
    simp [virtualOutcome, and_iff_right hp, hlong]
  | longFromMid hp => simp [virtualOutcome, and_iff_right hp, not_short_of_long hd hman hp]

theorem virtualOutcome_eq_fail {α : Type} {d : Desc} {mid : Bool} {p : Half}
    (h : ∀ ws mid', ¬ Segment d true p mid ws mid') (n : Int) (full : List Bool → α) (fail : α) :
    virtualOutcome d mid p n full fail = fail := by
  cases mid with
  | false =>
    have hshort : ¬ Short d p := fun hp => h _ _ (.shortFromBoundary hp)
    simp [virtualOutcome, hshort]
  | true =>
    have hshort : ¬ Short d p := fun hp => h _ _ (.shortFromMid hp)
    have hlong : ¬ Long d p := fun hp => h _ _ (.longFromMid hp)
    simp [virtualOutcome, hshort, hlong]

/-- The virtual tick walks the last mark only (R166). -/
theorem finish_manPairVirtual {s : State} {r : DecRegs} (hd : s.cand.WF)
    (hman : s.cand.isManchester = true) (hr : DataFrame s.cand r)
    (hidx : r.candIdx = s.dec.candIdx) :
    (manPairVirtual s.cand { countRep s with dec := r }).finish =
      virtualOutcome s.cand r.manMid r.pulseTime r.bitpos.toInt
        (fun ws => s.afterFullFrame s.cand (shiftIn s.cand r.data ws)) (s.rxNone .cleared) := by
  by_cases hmark : ∃ ws mid, Segment s.cand true r.pulseTime r.manMid ws mid
  · obtain ⟨ws, mid, hmark⟩ := hmark
    rw [virtualOutcome_of_segment hd hman hmark]
    exact finish_manPairVirtual_of_segment hd hman hr hidx hmark
  · have hno : ∀ ws mid, ¬ Segment s.cand true r.pulseTime r.manMid ws mid :=
      fun ws mid h => hmark ⟨ws, mid, h⟩
    rw [virtualOutcome_eq_fail hno, manPairVirtual_of_manMark_eq_none
      (s := { countRep s with dec := r }) (manMark_eq_none hno)]
    exact finish_abandon_countRep s

/-- Settles O47: the space is counted up to two half bits; the tick that exceeds them walks the mark. -/
theorem virtualTickEndsFrame : Obligations.VirtualTickEndsFrame := by
  intro s hg hl hs hman hspace
  obtain ⟨hrpt, hnonneg, hle, hmax⟩ := hg.dataFrame hs
  have hr : DataFrame s.cand { s.dec with pauseTime := satInc s.dec.pauseTime } :=
    ⟨hrpt, hnonneg, hle, hmax⟩
  rw [exec_tick_of_manSpace hg hl hs hman hspace, if_neg Bool.false_ne_true, manSpaceOn_eq,
    countRep_dec]
  by_cases hcounts : ((satInc s.dec.pauseTime).toNat : Int) ≤ 2 * s.cand.p1Pulse.max
  · rw [if_pos hcounts, if_pos hcounts]
    exact congrArg _ (finish_quiet_countRep s _)
  · rw [if_neg hcounts, if_neg hcounts]
    exact congrArg _ (finish_manPairVirtual (hg.cand_wf (.inl hs)) hman hr rfl)

end Sys2Proof.Machine

namespace Sys2Proof

/-! ## Bit reversal, and the fields of a frame (R11, R181, R204) -/

theorem bitrev_lt (v n : Nat) : bitrev v n < 2 ^ n := by
  induction n generalizing v with
  | zero => exact Nat.one_pos
  | succ n ih =>
    have hrest := ih (v / 2)
    have htop : v % 2 * 2 ^ n ≤ 1 * 2 ^ n := Nat.mul_le_mul_right _ (by omega)
    rw [bitrev, Nat.pow_succ]
    omega

/-- Bit `k` of the reversed value is bit `n - 1 - k` of the value. -/
theorem testBit_bitrev (v n k : Nat) :
    (bitrev v n).testBit k = (decide (k < n) && v.testBit (n - 1 - k)) := by
  induction n generalizing v with
  | zero => simp [bitrev]
  | succ n ih =>
    rw [bitrev, Nat.mul_comm, Nat.testBit_two_pow_mul_add _ (bitrev_lt _ n)]
    split
    · rename_i hlow
      have hk : n + 1 - 1 - k = n - 1 - k + 1 := by omega
      rw [ih, hk, Nat.testBit_succ]
      simp [hlow, hlow.trans n.lt_succ_self]
    · rename_i hhigh
      rcases eq_or_ne k n with rfl | hne
      · simp
      · have hout : ¬ k < n + 1 := by omega
        simp [hout, Nat.testBit_lt_two_pow ((Nat.mod_lt v two_pos).trans_le
          (Nat.le_self_pow (show k - n ≠ 0 by omega) 2))]

/-- Reversing twice gives the low `n` bits back. -/
theorem bitrev_bitrev (v n : Nat) : bitrev (bitrev v n) n = v % 2 ^ n := by
  refine Nat.eq_of_testBit_eq fun k => ?_
  rw [testBit_bitrev, testBit_bitrev, Nat.testBit_mod_two_pow]
  by_cases hk : k < n
  · have hback : n - 1 - (n - 1 - k) = k := by omega
    simp [hk, hback, show n - 1 - k < n by omega]
  · simp [hk]

theorem Desc.order_lt (d : Desc) {v n : Nat} (h : v < 2 ^ n) : d.order v n < 2 ^ n := by
  unfold Desc.order
  split
  · exact bitrev_lt v n
  · exact h

/-- A field's order on the wire is its own inverse (R181, R204). -/
theorem Desc.order_order (d : Desc) {v n : Nat} (h : v < 2 ^ n) :
    d.order (d.order v n) n = v := by
  unfold Desc.order
  split
  · rw [bitrev_bitrev, Nat.mod_eq_of_lt h]
  · rfl

/-- Two fields side by side fill no more than their widths together. -/
theorem mul_two_pow_add_lt {a c m n : Nat} (ha : a < 2 ^ m) (hc : c < 2 ^ n) :
    a * 2 ^ n + c < 2 ^ (m + n) := by
  calc a * 2 ^ n + c < (a + 1) * 2 ^ n := by rw [Nat.succ_mul]; omega
    _ ≤ 2 ^ m * 2 ^ n := Nat.mul_le_mul_right _ ha
    _ = 2 ^ (m + n) := (Nat.pow_add 2 m n).symm

/-- The frame that `assemble` gives, as a number: nothing is cut off (R97 W3, R204). -/
theorem Desc.toNat_assemble {d : Desc} (hd : d.W3) (a : BitVec 16) (c : BitVec 32) :
    (d.assemble a c).toNat =
      d.order (a.toNat % 2 ^ d.addrBits.toNat) d.addrBits.toNat * 2 ^ d.cmdBits.toNat +
        d.order (c.toNat % 2 ^ d.cmdBits.toNat) d.cmdBits.toNat := by
  obtain ⟨-, -, -, hmax⟩ := hd
  have ha := d.order_lt (Nat.mod_lt a.toNat (Nat.two_pow_pos d.addrBits.toNat))
  have hc := d.order_lt (Nat.mod_lt c.toNat (Nat.two_pow_pos d.cmdBits.toNat))
  rw [Desc.assemble, BitVec.toNat_ofNat]
  exact Nat.mod_eq_of_lt ((mul_two_pow_add_lt ha hc).trans_le
    (Nat.pow_le_pow_right two_pos hmax))

/-- The address field of a frame (R97 W3, R181). -/
theorem Desc.div_cmd_lt {d : Desc} {v : Nat} (hv : v < 2 ^ d.nbits) :
    v / 2 ^ d.cmdBits.toNat < 2 ^ d.addrBits.toNat :=
  Nat.div_lt_of_lt_mul (by rwa [← Nat.pow_add, Nat.add_comm])

/-- What `extract` reads from a frame of `nbits` bits, as numbers (R97 W3, R181). -/
theorem Desc.toNat_extract {d : Desc} (hd : d.W3) {x : BitVec 32} (hx : x.toNat < 2 ^ d.nbits) :
    (d.extract x).1.toNat = d.order (x.toNat / 2 ^ d.cmdBits.toNat) d.addrBits.toNat ∧
    (d.extract x).2.toNat = d.order (x.toNat % 2 ^ d.cmdBits.toNat) d.cmdBits.toNat := by
  obtain ⟨haddr, hcmd, -, -⟩ := hd
  have ha := d.div_cmd_lt hx
  have hc := Nat.mod_lt x.toNat (Nat.two_pow_pos d.cmdBits.toNat)
  simp only [Desc.extract, Nat.mod_eq_of_lt hx, BitVec.toNat_ofNat]
  exact ⟨Nat.mod_eq_of_lt ((d.order_lt ha).trans_le (Nat.pow_le_pow_right two_pos haddr)),
    Nat.mod_eq_of_lt ((d.order_lt hc).trans_le (Nat.pow_le_pow_right two_pos hcmd))⟩

theorem Desc.extract_assemble {d : Desc} (hd : d.W3) (a : BitVec 16) (c : BitVec 32) :
    (d.extract (d.assemble a c)).1.toNat = a.toNat % 2 ^ d.addrBits.toNat ∧
    (d.extract (d.assemble a c)).2.toNat = c.toNat % 2 ^ d.cmdBits.toNat := by
  have ha := Nat.mod_lt a.toNat (Nat.two_pow_pos d.addrBits.toNat)
  have hc := Nat.mod_lt c.toNat (Nat.two_pow_pos d.cmdBits.toNat)
  have hfits : (d.assemble a c).toNat < 2 ^ d.nbits := by
    rw [d.toNat_assemble hd]
    exact mul_two_pow_add_lt (d.order_lt ha) (d.order_lt hc)
  obtain ⟨haddr, hcmd⟩ := d.toNat_extract hd hfits
  rw [haddr, hcmd, d.toNat_assemble hd, Nat.add_comm, Nat.add_mul_div_right _ _ (Nat.two_pow_pos _),
    Nat.add_mul_mod_self_right, Nat.div_eq_of_lt (d.order_lt hc), Nat.mod_eq_of_lt (d.order_lt hc),
    Nat.zero_add, d.order_order ha, d.order_order hc]
  exact ⟨rfl, rfl⟩

theorem Desc.assemble_extract {d : Desc} (hd : d.W3) {x : BitVec 32} (hx : x.toNat < 2 ^ d.nbits) :
    d.assemble (d.extract x).1 (d.extract x).2 = x := by
  have ha := d.div_cmd_lt hx
  have hc := Nat.mod_lt x.toNat (Nat.two_pow_pos d.cmdBits.toNat)
  obtain ⟨haddr, hcmd⟩ := d.toNat_extract hd hx
  refine BitVec.eq_of_toNat_eq ?_
  rw [d.toNat_assemble hd, haddr, hcmd, Nat.mod_eq_of_lt (d.order_lt ha),
    Nat.mod_eq_of_lt (d.order_lt hc), d.order_order ha, d.order_order hc, Nat.div_add_mod']

/-- Settles O26: a field's order is its own inverse, and the two fields do not overlap in the frame. -/
theorem assembleExtractInverse : Obligations.AssembleExtractInverse :=
  fun _ hd => ⟨Desc.extract_assemble hd, fun _ => Desc.assemble_extract hd⟩

end Sys2Proof

namespace Sys2Proof.Machine

/-! ## Emitted results (43_decoder_complete.md) -/

/-- `t` is what a tick that emitted a result leaves behind, with `cb` for `cb_en` and the response `r`
(R92, R180 to R186). -/
abbrev State.Emitted (t : State) (cb : Bool) (r : Word) : Prop :=
  t.ready = true ∧ t.rep.timer = 0#16 ∧ t.dec = .cleared ∧
  t.rep.lastValid = true ∧ t.res.proto = t.rep.lastProto ∧ t.res.addr = t.rep.lastAddr ∧
  t.res.cmd = t.rep.lastCmd ∧ t.res.flags.extractLsb' 1 3 = 0#3 ∧
  r = 0x0#4 ++ t.res.proto ++ t.res.addr ++ t.res.cmd ++
    (0#1 ++ BitVec.ofBool cb ++ 0#1 ++ t.res.flags.extractLsb' 0 1)

theorem emitted_afterFullFrame {s : State} {d : Desc} {data : BitVec 32} {r : Word}
    (h : (s.afterFullFrame d data).resp = some r) : (s.afterFullFrame d data).Emitted s.cbEn r := by
  refine ⟨rfl, rfl, rfl, rfl, rfl, rfl, rfl, BitVec.extractLsb'_append_eq_left, ?_⟩
  have hrep : (s.afterFullFrame d data).res.flags.extractLsb' 0 1 = _ :=
    BitVec.extractLsb'_append_eq_right
  rw [hrep]
  exact (Option.some.inj h).symm

theorem emitted_afterRepeatCode {s : State} {r : Word} (hlast : s.rep.lastValid = true)
    (h : s.afterRepeatCode.resp = some r) : s.afterRepeatCode.Emitted s.cbEn r :=
  ⟨rfl, rfl, rfl, hlast, rfl, rfl, rfl, (by decide : (1#4).extractLsb' 1 3 = 0#3),
    (Option.some.inj h).symm⟩

/-- A silent tick does not answer OK (R91). -/
theorem statusOf_rxNone {s : State} {d : DecRegs} {r : Word} (h : (s.rxNone d).resp = some r) :
    statusOf r ≠ 0x0#4 := by
  obtain rfl : _ = r := Option.some.inj h
  decide

/-- Completing a frame with OK leaves an emitted result: of a full frame, or of a repeat code that has
something to repeat (R180, R186). -/
theorem emitted_of_complete {s : State} {d : DecRegs} {r : Word}
    (h : (complete { countRep s with dec := d }).finish.resp = some r) (hok : statusOf r = 0x0#4) :
    (complete { countRep s with dec := d }).finish.Emitted s.cbEn r := by
  cases hrpt : d.rpt with
  | false =>
    rw [finish_complete_fullFrame s hrpt] at h ⊢
    exact emitted_afterFullFrame h
  | true =>
    rw [finish_complete_repeatCode s hrpt] at h ⊢
    split at h
    · rename_i hfits
      obtain ⟨hlast, -⟩ := id hfits
      rw [if_pos hfits]
      exact emitted_afterRepeatCode hlast h
    · exact absurd hok (statusOf_rxNone h)

/-- No encoder tick answers OK (R206, R217). -/
theorem statusOf_encTick {s : State} {r : Word} (h : (encTick s).finish.resp = some r) :
    statusOf r ≠ 0x0#4 := by
  rcases encTick_arb s with ⟨-, hresp⟩ | ⟨-, hresp⟩ <;>
    obtain rfl : _ = r := Option.some.inj (hresp.symm.trans h) <;> decide

/-- A decoder tick that answers OK is not in hold and completes a frame (R112, R182). -/
theorem emitted_of_decTick {b : Bool} {s : State} {r : Word}
    (h : (decTick b s).finish.resp = some r) (hok : statusOf r = 0x0#4) :
    s.ready = false ∧ (decTick b s).finish.Emitted s.cbEn r := by
  rcases decTick_cases b s with ⟨-, heq⟩ | ⟨hready, -, ⟨d, heq⟩ | ⟨d, heq⟩⟩ <;> rw [heq] at h ⊢
  · exact absurd hok (statusOf_rxNone (finish_quiet_countRep s s.dec ▸ h))
  · exact absurd hok (statusOf_rxNone (finish_quiet_countRep s d ▸ h))
  · exact ⟨hready, emitted_of_complete h hok⟩

/-- Settles O48: only a decoder tick answers OK, and only by completing a frame. -/
theorem emittedResult : Obligations.EmittedResult := by
  intro s t b r h hresp hok
  rcases exec_tick_cases h with ⟨-, rfl⟩ | ⟨hm, rfl⟩
  · exact absurd hok (statusOf_encTick hresp)
  · exact ⟨hm, emitted_of_decTick hresp hok⟩

end Sys2Proof.Machine

namespace Sys2Proof

/-! ## Counting up to an expected duration (R11, R15) -/

/-- Repeated saturating counts stop at 0xFFFF (R11). -/
theorem toNat_iterate_satInc (n : Nat) (v : Half) :
    (satInc^[n] v).toNat = min (v.toNat + n) 0xFFFF := by
  induction n with
  | zero =>
    have := v.isLt
    simp only [Function.iterate_zero, id_eq]
    omega
  | succ n ih =>
    rw [Function.iterate_succ_apply', satInc_toNat_eq_min, ih]
    omega

theorem Timing.has_exp (t : Timing) : t.Has t.exp := by
  unfold Timing.Has Timing.min Timing.max
  omega

theorem toNat_add_one_of_lt {x v : Half} (h : x.toNat < v.toNat) :
    (x + 1#16).toNat = x.toNat + 1 := by
  bv_omega

theorem satInc_of_lt {x v : Half} (h : x.toNat < v.toNat) : satInc x = x + 1#16 := by
  refine BitVec.eq_of_toNat_eq ?_
  have := v.isLt
  rw [satInc_toNat_eq_min, toNat_add_one_of_lt h]
  omega

/-- A count below a timing's expected duration goes on within the timing's window. -/
theorem Timing.toNat_satInc_le_max {t : Timing} {x : Half} (h : x.toNat < t.exp.toNat) :
    ((satInc x).toNat : Int) ≤ t.max := by
  rw [satInc_of_lt h, toNat_add_one_of_lt h]
  unfold Timing.max
  omega

end Sys2Proof

namespace Sys2Proof.Machine

/-! ## Runs of samples without a result

While a decoder listens, what a silent tick makes of the frame registers depends on the table and on
these registers alone. So a signal is followed in the frame registers, and `responses_of_silentRun`
says once what that means for the operations. -/

/-- Over the table of `c` a listening decoder with the frame registers `r` takes the sample of a mark
(`m`) or a space silently and then has `r'`, whatever else the state holds (R110). -/
def SilentStep (c : Config) (m : Bool) (r r' : DecRegs) : Prop :=
  ∀ s : State, s.cfg = c → s.Listening → s.dec = r →
    exec (.tick (s.sample m)) s = .next (s.rxNone r')

/-- The samples `ms` take a listening decoder silently from `r` to `r'`. -/
inductive SilentRun (c : Config) : List Bool → DecRegs → DecRegs → Prop where
  | nil (r : DecRegs) : SilentRun c [] r r
  | cons {m : Bool} {ms : List Bool} {r r₁ r' : DecRegs} (step : SilentStep c m r r₁)
      (rest : SilentRun c ms r₁ r') : SilentRun c (m :: ms) r r'

theorem SilentRun.append {c : Config} {ms ms' : List Bool} {r r₁ r' : DecRegs}
    (h : SilentRun c ms r r₁) (h' : SilentRun c ms' r₁ r') : SilentRun c (ms ++ ms') r r' := by
  induction h with
  | nil => exact h'
  | cons step _ ih => exact .cons step (ih h')

theorem SilentRun.snoc {c : Config} {m : Bool} {ms : List Bool} {r r₁ r' : DecRegs}
    (h : SilentRun c ms r r₁) (step : SilentStep c m r₁ r') : SilentRun c (ms ++ [m]) r r' :=
  h.append (.cons step (.nil r'))

/-- A segment of `v` equal samples counts a register up to `v`: the first sample sets it to 1, and each
one after it adds 1. -/
theorem SilentRun.count {c : Config} {m : Bool} {r : DecRegs} {f : Half → DecRegs} {v : Half}
    (hv : 1 ≤ v.toNat) (first : SilentStep c m r (f 1#16))
    (next : ∀ x : Half, x.toNat < v.toNat → SilentStep c m (f x) (f (x + 1#16))) :
    SilentRun c (List.replicate v.toNat m) r (f v) := by
  have upTo (n : Nat) (hn : n + 1 ≤ v.toNat) :
      SilentRun c (List.replicate (n + 1) m) r (f (BitVec.ofNat 16 (n + 1))) := by
    induction n with
    | zero => exact .cons first (.nil _)
    | succ n ih =>
      rw [List.replicate_succ', BitVec.ofNat_add]
      refine (ih (by omega)).snoc (next _ ?_)
      rw [BitVec.toNat_ofNat]
      exact (Nat.mod_le _ _).trans_lt hn
  simpa [Nat.sub_add_cancel hv] using upTo (v.toNat - 1) (by omega)

/-- `s` after `n` silent decoder ticks that leave the frame registers `r` (R110, R111). -/
def State.heard (s : State) (n : Nat) (r : DecRegs) (resp : Option Word) : State :=
  { s with dec := r, rep := { s.rep with timer := satInc^[n] s.rep.timer }, resp := resp }

theorem responses_cons {i : Instr} {s t : State} (h : exec i s = .next t) (is : List Instr) :
    responses (i :: is) s = t.resp :: responses is t := by
  rw [responses, h]

/-- A silent run answers NONE to every sample, and goes on from the registers it reached. -/
theorem responses_of_silentRun {c : Config} {ms : List Bool} {r r' : DecRegs}
    (h : SilentRun c ms r r') {s : State} (hc : s.cfg = c) (hl : s.Listening) (hr : s.dec = r)
    (is : List Instr) :
    ∃ resp, responses (ms.map (fun m => .tick (s.sample m)) ++ is) s =
      List.replicate ms.length (some 0x1000000000000000#64) ++
        responses is (s.heard ms.length r' resp) := by
  induction h generalizing s with
  | nil => exact ⟨s.resp, by subst hr; rfl⟩
  | cons step _ ih =>
    obtain ⟨resp, hrest⟩ := ih (s := s.rxNone _) hc hl rfl
    refine ⟨resp, ?_⟩
    rw [List.map_cons, List.cons_append, responses_cons (step s hc hl hr)]
    exact congrArg _ hrest

/-- `SEGS` feeds the envelope of its segments, sample by sample (R98, R219). -/
theorem segs_eq_map_envelope (s : State) (l : List (Bool × Nat)) :
    segs s.cfg.activeIn l = (envelope l).map fun m => .tick (s.sample m) := by
  simp only [segs, envelope, ticks, State.sample, List.map_flatMap, List.map_replicate]

/-- In hold every tick answers NONE (R112). -/
theorem responses_ticks_of_ready (b : Bool) (n : Nat) {s : State} (hm : s.arb.mode = .rx)
    (hr : s.ready = true) :
    responses (ticks b n) s = List.replicate n (some 0x1000000000000000#64) := by
  induction n generalizing s with
  | zero => rfl
  | succ n ih =>
    have htick : responses (ticks b (n + 1)) s = _ := responses_cons (holdOnlyCounts s b hm hr) _
    rw [htick]
    exact congrArg _ (ih hm hr)

/-! ## A repeat code as sent (R186, R218, R219) -/

/-- The envelope of a repeat code up to its gap: two marks around a space (R218). -/
def repeatCodeBeforeGap (d : Desc) : List Bool :=
  List.replicate d.rptPulse.exp.toNat true ++ List.replicate d.rptPause.exp.toNat false ++
    List.replicate d.p0Pulse.exp.toNat true

theorem length_repeatCodeBeforeGap (d : Desc) :
    (repeatCodeBeforeGap d).length =
      d.rptPulse.exp.toNat + d.rptPause.exp.toNat + d.p0Pulse.exp.toNat := by
  simp only [repeatCodeBeforeGap, List.length_append, List.length_replicate]

theorem envelope_repeatSegs (d : Desc) :
    envelope (repeatSegs d) = repeatCodeBeforeGap d ++ List.replicate d.gap.toNat false := by
  simp [envelope, repeatSegs, repeatCodeBeforeGap]

/-- The frame registers in IDLE with `p` samples of a leading mark counted (R115). -/
def leadingMark (p : Half) : DecRegs := { DecRegs.cleared with pulseTime := p }

/-- The frame registers after a leading mark of `p` samples and `q` samples of header space (R116,
R118). -/
def headerSpaceRegs (p q : Half) : DecRegs :=
  { leadingMark p with startBitDetected := true, waitSpace := true, pauseTime := q }

/-- The frame registers of a repeat code of record `i` with `z` samples of its stop mark counted (R120,
R146). -/
def repeatStopMark (i : Nat) (z : Half) : DecRegs :=
  { bitpos := 0#7, pulseTime := z, pauseTime := 0#16, startBitDetected := true, waitSpace := false,
    candValid := true, candIdx := BitVec.ofNat 8 i, rpt := true, manMid := false, data := 0#32 }

theorem silentStep_leadingMark (c : Config) (x : Half) :
    SilentStep c true (leadingMark x) (leadingMark (satInc x)) := by
  intro s _ hl hr
  rw [leadingMarkCounts.1 s hl (by rw [hr]; rfl), hr]
  rfl

theorem decState_headerSpaceRegs {s : State} {p q : Half} (hr : s.dec = headerSpaceRegs p q) :
    s.decState = .startBitSeen := by
  rw [State.decState, hr]
  rfl

section
variable {c : Config} {i : Nat}

/-- A mark that fits the repeat header of a record begins the header space (R116, R117). -/
theorem silentStep_repeatMarkEnd (hi : i < c.nproto) (hrpt : (c.desc i).hasRpt = true) {p : Half}
    (hp : (c.desc i).rptPulse.Has p) (hpos : p ≠ 0#16) :
    SilentStep c false (leadingMark p) (headerSpaceRegs p 1#16) := by
  rintro s rfl hl hr
  obtain ⟨-, hbegins, -⟩ := leadingMarkEnds s hl (by rw [hr]; rfl)
  rw [hr] at hbegins
  exact hbegins hpos ⟨_, s.cfg.desc_mem i hi, .inr ⟨hrpt, hp⟩⟩

/-- The header space is counted while it may still be the repeat header of a record (R118, R119). -/
theorem silentStep_repeatSpace (hi : i < c.nproto) (hrpt : (c.desc i).hasRpt = true) {p x : Half}
    (hp : (c.desc i).rptPulse.Has p)
    (hx : ((satInc x).toNat : Int) ≤ (c.desc i).rptPause.max) :
    SilentStep c false (headerSpaceRegs p x) (headerSpaceRegs p (satInc x)) := by
  rintro s rfl hl hr
  rw [headerSpaceCounts s hl (decState_headerSpaceRegs hr), hr, if_pos]
  · rfl
  · exact List.any_eq_true.mpr ⟨_, s.cfg.desc_mem i hi,
      Bool.or_eq_true_iff.mpr (.inr (decide_eq_true ⟨hrpt, hp, hx⟩))⟩

/-- The mark after a repeat header that no earlier record fits starts the stop mark (R120, R122). -/
theorem silentStep_repeatHeader (hc : c.WF) (hi : i < c.nproto) {p q : Half}
    (hfits : Rpt (c.desc i) p q) (hbelow : ∀ j < i, NoHeader (c.desc j) p q) :
    SilentStep c true (headerSpaceRegs p q) (repeatStopMark i 1#16) := by
  rintro s rfl hl hr
  obtain ⟨henter, -⟩ := headerMatchEnters s hc hl (decState_headerSpaceRegs hr)
  rw [hr] at henter
  obtain ⟨-, -, hrepeat⟩ := henter i hi hbelow
  exact hrepeat hfits

/-- In the stop mark of a repeat code a tick is R146's rule. -/
theorem exec_tick_of_repeatStopMark {s : State} (hc : s.cfg.WF) (hi : i < s.cfg.nproto)
    (hrpt : (s.cfg.desc i).hasRpt = true) (hl : s.Listening) {z : Half}
    (hr : s.dec = repeatStopMark i z) (m : Bool) :
    exec (.tick (s.sample m)) s = .next (stopTick m (s.cfg.desc i) (countRep s)).finish := by
  have hidx : s.dec.candIdx.toNat = i := by rw [hr]; exact hc.index_fits hi
  have hcand : s.cand = s.cfg.desc i := by rw [State.cand, hidx]
  have hstop := (hc.desc hi).hasStop_of_hasRpt hrpt
  have hman := (hc.desc hi).not_manchester_of_hasStop hstop
  have hbit : s.dec.bitpos = 0#7 := by rw [hr]; rfl
  have hnotIdle : 0#7 ≠ bitposIdle := by decide
  have hfault : decFault s = none := by
    simp [decFault, hbit, hidx, hi]
  have hstate : s.decState = .stopBitExpected := by
    have hstart : s.dec.startBitDetected = true := by rw [hr]; rfl
    have hflag : s.dec.rpt = true := by rw [hr]; rfl
    simp [State.decState, State.nbitsEff, hcand, hstop, hstart, hflag, hbit, hnotIdle]
  rw [exec_tick_of_listening hl hfault, decSample_of_stopBitExpected (s := countRep s) hstate
    (hcand ▸ hman), ← hcand]
  rfl

/-- The stop mark is counted up to its longest duration (R146). -/
theorem silentStep_repeatStopMark (hc : c.WF) (hi : i < c.nproto)
    (hrpt : (c.desc i).hasRpt = true) {x : Half}
    (hx : ((satInc x).toNat : Int) ≤ (c.desc i).p0Pulse.max) :
    SilentStep c true (repeatStopMark i x) (repeatStopMark i (satInc x)) := by
  rintro s rfl hl hr
  have hcount : atMost (satInc s.dec.pulseTime) (s.cfg.desc i).p0Pulse.max = true := by
    rw [hr]
    exact (atMost_iff _ _).mpr hx
  rw [exec_tick_of_repeatStopMark hc hi hrpt hl hr, stopTick, if_pos rfl, countRep_dec]
  simp only [if_pos hcount]
  rw [finish_quiet_countRep, hr]
  rfl

/-- The marks and the space of a repeat code as sent, up to its gap, are silent. -/
theorem silentRun_repeatCode (hc : c.WF) (hi : i < c.nproto) (hrpt : (c.desc i).hasRpt = true)
    (hbelow : ∀ j < i, NoHeader (c.desc j) (c.desc i).rptPulse.exp (c.desc i).rptPause.exp) :
    SilentRun c (repeatCodeBeforeGap (c.desc i)) .cleared
      (repeatStopMark i (c.desc i).p0Pulse.exp) := by
  obtain ⟨-, -, -, -, ⟨-, -, -, -, hstop, -, hused⟩, -⟩ := (Desc.wf_iff _).mp (hc.desc hi)
  obtain ⟨hpulse, hpause⟩ := hused hrpt
  have hp := Timing.has_exp (c.desc i).rptPulse
  have hpos := exp_pos_of_inRange hpulse
  have mark : SilentRun c (List.replicate (c.desc i).rptPulse.exp.toNat true) .cleared
      (leadingMark (c.desc i).rptPulse.exp) :=
    .count hpos (silentStep_leadingMark c 0#16)
      fun x hx => satInc_of_lt hx ▸ silentStep_leadingMark c x
  have space : SilentRun c (List.replicate (c.desc i).rptPause.exp.toNat false)
      (leadingMark (c.desc i).rptPulse.exp)
      (headerSpaceRegs (c.desc i).rptPulse.exp (c.desc i).rptPause.exp) :=
    .count (exp_pos_of_inRange hpause)
      (silentStep_repeatMarkEnd hi hrpt hp fun h0 => absurd hpos (by simp [h0]))
      fun x hx => satInc_of_lt hx ▸
        silentStep_repeatSpace hi hrpt hp (Timing.toNat_satInc_le_max hx)
  have stop : SilentRun c (List.replicate (c.desc i).p0Pulse.exp.toNat true)
      (headerSpaceRegs (c.desc i).rptPulse.exp (c.desc i).rptPause.exp)
      (repeatStopMark i (c.desc i).p0Pulse.exp) :=
    .count (exp_pos_of_inRange hstop)
      (silentStep_repeatHeader hc hi ⟨hrpt, hp, Timing.has_exp _⟩ hbelow)
      fun x hx => satInc_of_lt hx ▸
        silentStep_repeatStopMark hc hi hrpt (Timing.toNat_satInc_le_max hx)
  exact (mark.append space).append stop

end

/-- The first sample of the gap ends the stop mark and repeats the last result (R146, R186). -/
theorem exec_tick_of_repeatCode {s : State} {i : Nat} (hc : s.cfg.WF) (hi : i < s.cfg.nproto)
    (hrpt : (s.cfg.desc i).hasRpt = true) (hl : s.Listening)
    (hr : s.dec = repeatStopMark i (s.cfg.desc i).p0Pulse.exp) (hvalid : s.rep.lastValid = true)
    (hproto : s.rep.lastProto = (s.cfg.desc i).id)
    (hwindow : (satInc s.rep.timer).toNat ≤ (s.cfg.desc i).repWindow.toNat) :
    exec (.tick (s.sample false)) s = .next s.afterRepeatCode := by
  have hfits : (s.cfg.desc i).p0Pulse.Has s.dec.pulseTime := by
    rw [hr]
    exact Timing.has_exp _
  have hidx : s.dec.candIdx.toNat = i := by rw [hr]; exact hc.index_fits hi
  have hflag : s.dec.rpt = true := by rw [hr]; rfl
  have hcomplete : (complete (countRep s)).finish = _ := finish_complete_repeatCode s hflag
  rw [hidx, if_pos ⟨hvalid, hproto, hwindow⟩] at hcomplete
  rw [exec_tick_of_repeatStopMark hc hi hrpt hl hr,
    stopTick_space_of_has (s := countRep s) hfits, hcomplete]

/-- Settles O53: the code is silent up to its gap, whose first sample repeats the last result and is
followed by hold; the repeat timer has counted every sample of the code by then. -/
theorem repeatCodeRoundTrip : Obligations.RepeatCodeRoundTrip := by
  intro s i hc hl hr hi d k hrpt hvalid hproto hwindow hbelow
  obtain ⟨-, -, -, -, -, -, -, -, -, hgap, -⟩ := (Desc.wf_iff _).mp (hc.desc hi)
  have hsplit : List.replicate d.gap.toNat false = false :: List.replicate (d.gap.toNat - 1) false :=
    by rw [← List.replicate_succ, Nat.sub_add_cancel hgap]
  obtain ⟨resp, hrun⟩ := responses_of_silentRun (silentRun_repeatCode hc hi hrpt hbelow) rfl hl hr
    (.tick (s.sample false) :: ticks (s.sample false) (d.gap.toNat - 1))
  have hemit : exec (.tick (s.sample false)) (s.heard k (repeatStopMark i d.p0Pulse.exp) resp) =
      .next s.afterRepeatCode := by
    refine exec_tick_of_repeatCode hc hi hrpt hl rfl hvalid hproto ?_
    change (satInc (satInc^[k] s.rep.timer)).toNat ≤ d.repWindow.toNat
    rw [← Function.iterate_succ_apply' satInc, toNat_iterate_satInc]
    omega
  have hhold := responses_ticks_of_ready (s.sample false) (d.gap.toNat - 1)
    (s := s.afterRepeatCode) hl.1 rfl
  rw [length_repeatCodeBeforeGap, responses_cons hemit, hhold] at hrun
  rw [segs_eq_map_envelope s, envelope_repeatSegs, hsplit, List.map_append, List.map_cons,
    List.map_replicate, List.append_assoc]
  exact hrun

end Sys2Proof.Machine

namespace Sys2Proof

/-! ## The bits of a frame (R204, R205) -/

/-- A bit of the frame is a bit of the command field or, above it, of the address field (R204). -/
theorem Desc.getLsbD_assemble {d : Desc} (hd : d.W3) (a : BitVec 16) (c : BitVec 32) (j : Nat) :
    (d.assemble a c).getLsbD j =
      if j < d.cmdBits.toNat then
        (d.order (c.toNat % 2 ^ d.cmdBits.toNat) d.cmdBits.toNat).testBit j
      else (d.order (a.toNat % 2 ^ d.addrBits.toNat) d.addrBits.toNat).testBit
        (j - d.cmdBits.toNat) := by
  have hc := d.order_lt (Nat.mod_lt c.toNat (Nat.two_pow_pos d.cmdBits.toNat))
  rw [← BitVec.testBit_toNat, d.toNat_assemble hd, Nat.mul_comm, Nat.testBit_two_pow_mul_add _ hc]

/-- The bit of a field that is sent `k`-th is bit `k` with `LSB_FIRST`, and else bit `k` from the top
(R204). -/
theorem Desc.testBit_order_mod (d : Desc) (v : Nat) {n k : Nat} (hk : k < n) :
    (d.order (v % 2 ^ n) n).testBit (n - 1 - k) =
      if d.lsbFirst then v.testBit k else v.testBit (n - 1 - k) := by
  have hback : n - 1 - (n - 1 - k) = k := by omega
  have hlow : n - 1 - k < n := by omega
  unfold Desc.order
  split
  · rw [testBit_bitrev, hback, Nat.testBit_mod_two_pow]
    simp [hk, hlow]
  · rw [Nat.testBit_mod_two_pow]
    simp [hlow]

/-- No bit stands above the address field (R204). -/
theorem Desc.getLsbD_assemble_of_nbits_le {d : Desc} (hd : d.W3) (a : BitVec 16) (c : BitVec 32)
    {k : Nat} (hk : d.nbits ≤ k) : (d.assemble a c).getLsbD k = false := by
  have hwidth : d.addrBits.toNat ≤ k - d.cmdBits.toNat ∧ ¬ k < d.cmdBits.toNat := by
    unfold Desc.nbits at hk
    omega
  obtain ⟨habove, hcmd⟩ := hwidth
  rw [d.getLsbD_assemble hd, if_neg hcmd]
  exact Nat.testBit_lt_two_pow
    ((d.order_lt (Nat.mod_lt a.toNat (Nat.two_pow_pos _))).trans_le
      (Nat.pow_le_pow_right two_pos habove))

/-- Settles O27: a frame bit is looked up in its field, and a field's order is read bit by bit. -/
theorem frameBitOrder : Obligations.FrameBitOrder := by
  intro d a c hd
  refine ⟨fun k hk => ?_, fun k hk => ?_, fun k => d.getLsbD_assemble_of_nbits_le hd a c,
    fun _ _ _ => rfl⟩
  · have hplace : ¬ d.nbits - 1 - k < d.cmdBits.toNat ∧
        d.nbits - 1 - k - d.cmdBits.toNat = d.addrBits.toNat - 1 - k := by
      unfold Desc.nbits
      omega
    obtain ⟨hnot, hidx⟩ := hplace
    rw [d.getLsbD_assemble hd, if_neg hnot, hidx, d.testBit_order_mod _ hk]
    rfl
  · rw [d.getLsbD_assemble hd, if_pos (by omega), d.testBit_order_mod _ hk]
    rfl

/-- The id of a record finds the record: ids are distinct (R97). -/
theorem Config.WF.findProto_id {c : Config} (h : c.WF) {i : Nat} (hi : i < c.nproto) :
    c.findProto (c.desc i).id = some i := by
  have hids := h.2.1.2
  rw [Config.findProto, List.findIdx?_eq_some_iff_getElem]
  refine ⟨hi, by simp [c.desc_of_lt i hi], fun j hj heq => ?_⟩
  rw [beq_iff_eq, c.desc_of_lt i hi] at heq
  have hlen : (c.table.map Desc.id).length = c.nproto := List.length_map _
  have hsame : (c.table.map Desc.id)[j]'(by omega) = (c.table.map Desc.id)[i]'(by omega) := by
    rw [List.getElem_map, List.getElem_map]
    exact heq
  exact absurd (hids.getElem_inj_iff.mp hsame) hj.ne

end Sys2Proof

namespace Sys2Proof.Machine

/-! ## SEND as an operation (R200, R201) -/

/-- In mode RX a `SEND` for a record of the table is accepted (R200). -/
theorem exec_send_of_findProto {s : State} {p : BitVec 8} {i : Nat} (hm : s.arb.mode = .rx)
    (hfind : s.cfg.findProto p = some i) (a : BitVec 16) (c : BitVec 32) (n : BitVec 4) :
    exec (.send p a c n) s = .next (acceptSend i a c n s) := by
  simp only [exec, execSend, hm, reduceCtorEq, if_false, hfind]

/-- Settles O25: in mode RX the table decides, and each answer is a closed word. -/
theorem sendAcceptsOrRefuses : Obligations.SendAcceptsOrRefuses := by
  have hok : response .ok 0#60 = 0#64 := by decide
  have hproto : response .refusedProto 0#60 = 0x4000000000000000#64 := by decide
  have hbusy : response .refusedBusy 0#60 = 0x2000000000000000#64 := by decide
  have hmode : response .refusedMode 0#60 = 0x3000000000000000#64 := by decide
  refine ⟨fun s p a c n i hc hm hi hp => ?_, fun s p a c n hm hp => ?_, fun s p a c n hm => ?_⟩
  · rw [exec_send_of_findProto hm (hp ▸ hc.findProto_id hi), acceptSend, respondOk, hok]
    rfl
  · have hfind : s.cfg.findProto p = none :=
      Config.findProto_none.mpr fun d hd hid => hp ⟨d, hd, hid⟩
    simp only [exec, execSend, hm, reduceCtorEq, if_false, hfind]
    rw [refuse, hproto]
    rfl
  · simp only [exec, execSend, hm, if_true, refuse, txRefusal]
    cases s.enc.active with
    | true => simp only [if_true, hbusy, respond]
    | false => simp only [Bool.false_eq_true, if_false, hmode, respond]

/-! ## An encoder tick as an operation (R206, R222, R240) -/

/-- An encoder tick without a fault runs `encTick`, whatever the sample (R206, R240). -/
theorem exec_tick_of_tx {s : State} (hm : s.arb.mode = .tx) (hf : encFault s = none) (b : Bool) :
    exec (.tick b) s = .next (encTick s).finish := by
  have hfault : tickFault s = none := by rwa [tickFault, hm]
  have hout : tickOut b s = encTick s := by rw [tickOut, hm]
  rw [exec, execTick, hfault, hout]

theorem encFault_of_not_active {s : State} (h : s.enc.active = false) : encFault s = none := by
  simp [encFault, h]

theorem State.Good.encInv {s : State} (hg : s.Good) : EncInv s.cfg s.arb.mode s.enc := by
  obtain ⟨-, he, -⟩ := (inv_iff s).mp hg.2
  exact he

/-- A send in progress counts on, or ends, in every tick (R206). -/
theorem exec_tick_of_active {s : State} (hg : s.Good) (ha : s.enc.active = true) (b : Bool) :
    exec (.tick b) s = .next (encTick s).finish :=
  exec_tick_of_tx (hg.encInv.sending ha).1 (encFault_eq_none hg.encInv) b

/-- `drive_pin` as one formula: low in a space and without a send, and low in a mark after a tick of the
same mark in which it was high, with `CARRIER = TOGGLE` (R226). -/
theorem drivePin_eq (k : Carrier) (prev : Bool) (e : EncRegs) :
    drivePin k prev e = { e with
      pinOn := e.active && (e.level && !(decide (k = .toggle) && prev && e.pinOn)) } := by
  unfold drivePin
  cases e.active with
  | false => rfl
  | true =>
    cases e.level with
    | false => rfl
    | true => cases k <;> cases prev <;> rfl

/-- Driving the pin of a send that goes on is the statements' `pinNext` (R226). -/
theorem drivePin_of_active {s : State} {e : EncRegs} (ha : e.active = true)
    (hp : e.pinOn = s.enc.pinOn) :
    drivePin s.cfg.carrier s.enc.level e = { e with pinOn := s.pinNext e.level } := by
  rw [drivePin_eq, ha, hp]
  rfl

/-- A tick of a send that goes on with the registers `e` (R206). -/
theorem exec_tick_of_encCount {s : State} {e : EncRegs} (hg : s.Good) (ha : s.enc.active = true)
    (h : encCount s.encDesc s.enc = (e, false)) (he : e.active = true)
    (hp : e.pinOn = s.enc.pinOn) (b : Bool) : exec (.tick b) s = .next (s.txNone e) := by
  have htick : encTick s = quiet { s with enc := drivePin s.cfg.carrier s.enc.level e } := by
    rcases encTick_cases s with ⟨hn, -⟩ | ⟨r, -, hr, -, heq⟩ | ⟨r, -, hr, hend, -⟩
    · exact absurd (hn.symm.trans ha) (by decide)
    · rw [heq, hr.trans h]
    · exact absurd (hend.symm.trans (congrArg Prod.snd (hr.trans h))) Bool.false_ne_true.symm
  rw [exec_tick_of_active hg ha, htick, drivePin_of_active he hp]
  exact congrArg _ (congrArg (fun w => { s with
    enc := { e with pinOn := s.pinNext e.level }, resp := some w }) tickResponse_none)

/-- A tick within a logical tick counts `enc_sub` down (R222). -/
theorem encCount_of_sub {d : Desc} {e : EncRegs} (h : 1 < e.sub.toNat) :
    encCount d e = ({ e with sub := e.sub - 1#8 }, false) := by
  have hsub : e.sub - 1#8 ≠ 0#8 := by
    intro h0
    bv_omega
  simp only [encCount, if_neg hsub]

/-- A logical tick within a segment reloads `enc_sub` and counts `enc_dur` down (R222). -/
theorem encCount_of_dur {d : Desc} {e : EncRegs} (hs : e.sub = 1#8) (h : 1 < e.dur.toNat) :
    encCount d e = ({ e with sub := d.nSub, dur := e.dur - 1#16 }, false) := by
  have hdur : e.dur - 1#16 ≠ 0#16 := by
    intro h0
    bv_omega
  simp only [encCount, hs, BitVec.sub_self, if_true, if_neg hdur]

/-- The registers that `advance` starts from: the last logical tick of a segment (R206, R207). -/
def EncRegs.segmentOver (d : Desc) (e : EncRegs) : EncRegs := { e with sub := d.nSub, dur := 0#16 }

/-- The last logical tick of a segment advances to the next (R206). -/
theorem encCount_of_segmentEnd (d : Desc) {e : EncRegs} (hs : e.sub = 1#8) (hd : e.dur = 1#16) :
    encCount d e = advance d (e.segmentOver d) := by
  simp only [encCount, hs, hd, BitVec.sub_self, if_true, EncRegs.segmentOver]

/-- Settles O28: the three ways in which a tick ends no segment. -/
theorem encoderTickCounts : Obligations.EncoderTickCounts := by
  refine ⟨fun s b hm ha => ?_, fun s b hg ha hsub => ?_, fun s b hg ha hs hdur => ?_⟩
  · have htick : encTick s = quiet { s with enc := { s.enc with pinOn := false } } := by
      simp [encTick, ha]
    rw [exec_tick_of_tx hm (encFault_of_not_active ha), htick]
    exact congrArg _ (congrArg (fun w => { s with
      enc := { s.enc with pinOn := false }, resp := some w }) tickResponse_none)
  · exact exec_tick_of_encCount hg ha (encCount_of_sub hsub) ha rfl b
  · exact exec_tick_of_encCount hg ha (encCount_of_dur hs hdur) ha rfl b

/-! ## The end of a segment (R207 to R217) -/

theorem advance_of_start {d : Desc} {e : EncRegs} (h : e.phase = .start) :
    advance d e = (beginHdrMark d e, false) := by rw [advance, h]; rfl

theorem advance_of_hdrMark {d : Desc} {e : EncRegs} (h : e.phase = .hdrMark) :
    advance d e = (endHdrMark d e, false) := by rw [advance, h]

theorem advance_of_hdrSpace_repeat {d : Desc} {e : EncRegs} (h : e.phase = .hdrSpace)
    (hr : e.rptFrame = true) : advance d e = (beginStopMark d e, false) := by
  simp only [advance, h, endHdrSpace, hr, if_true]

theorem advance_of_hdrSpace_full {d : Desc} {e : EncRegs} (h : e.phase = .hdrSpace)
    (hr : e.rptFrame = false) :
    advance d e = (loadBitA d { e with phase := .bitA, bitIdx := 0#5 }, false) := by
  simp only [advance, h, endHdrSpace, hr, Bool.false_eq_true, if_false]

theorem advance_of_bitA {d : Desc} {e : EncRegs} (h : e.phase = .bitA) :
    advance d e = (loadBitB d { e with phase := .bitB }, false) := by rw [advance, h]; rfl

theorem advance_of_bitB_more {d : Desc} {e : EncRegs} (h : e.phase = .bitB)
    (hk : e.bitIdx.toNat + 1 < d.nbits) :
    advance d e = (loadBitA d { e with bitIdx := e.bitIdx + 1#5, phase := .bitA }, false) := by
  simp only [advance, h, endBitB, if_pos hk]

theorem advance_of_bitB_last {d : Desc} {e : EncRegs} (h : e.phase = .bitB)
    (hk : ¬ e.bitIdx.toNat + 1 < d.nbits) :
    advance d e = (if d.hasStop then beginStopMark d e else beginGap d e, false) := by
  simp only [advance, h, endBitB, if_neg hk]

theorem advance_of_stopMark {d : Desc} {e : EncRegs} (h : e.phase = .stopMark) :
    advance d e = (beginGap d e, false) := by rw [advance, h]; rfl

theorem advance_of_gap_repeat {d : Desc} {e : EncRegs} (h : e.phase = .gap)
    (hr : e.repLeft ≠ 0#4) : advance d e = (endGapRepeat d e, false) := by
  simp only [advance, h, if_neg hr]

theorem advance_of_gap_last {d : Desc} {e : EncRegs} (h : e.phase = .gap)
    (hr : e.repLeft = 0#4) : advance d e = (endGapLast e, true) := by
  simp only [advance, h, if_pos hr]

/-- The first segment of a data bit, with its level and duration as the statements give them (R211). -/
theorem loadBitA_eq (d : Desc) (e : EncRegs) :
    loadBitA d e = { e with
      level := !d.isManchester || d.wire e.frame e.bitIdx.toNat,
      dur := if d.isManchester || d.wire e.frame e.bitIdx.toNat then d.p1Pulse.exp
             else d.p0Pulse.exp } := by
  unfold loadBitA
  cases d.isManchester with
  | true => rfl
  | false => simp

/-- The second segment of a data bit (R211). -/
theorem loadBitB_eq (d : Desc) (e : EncRegs) :
    loadBitB d e = { e with
      level := d.isManchester && !d.wire e.frame e.bitIdx.toNat,
      dur := if d.isManchester then d.p1Pulse.exp
             else if d.wire e.frame e.bitIdx.toNat then d.p1Pause.exp else d.p0Pause.exp } := by
  unfold loadBitB
  cases d.isManchester <;> rfl

/-- The tick that ends a segment of a send begins the next one, `e` (R206, R207). -/
theorem exec_tick_of_segmentEnds {s : State} {e e' : EncRegs} (hg : s.Good) (hs : s.SegmentEnds)
    (b : Bool) (h : advance s.encDesc (s.enc.segmentOver s.encDesc) = (e', false))
    (he : e' = { e with sub := s.encDesc.nSub }) (ha : e.active = s.enc.active)
    (hp : e.pinOn = s.enc.pinOn) : exec (.tick b) s = .next (s.newSegment e) := by
  obtain ⟨hact, hsub, hdur⟩ := hs
  have hcount := (encCount_of_segmentEnd s.encDesc hsub hdur).trans h
  rw [he] at hcount
  exact exec_tick_of_encCount hg hact hcount (ha.trans hact) hp b

/-- Settles O29: each phase but a data bit's, by its own rule. -/
theorem frameSegmentsInOrder : Obligations.FrameSegmentsInOrder := by
  intro s b hg hs
  refine ⟨fun h => ?_, fun h => ?_, fun h hr => ?_, fun h => ?_, fun h hr => ?_⟩
  · exact exec_tick_of_segmentEnds hg hs b (advance_of_start h) rfl rfl rfl
  · exact exec_tick_of_segmentEnds hg hs b (advance_of_hdrMark h) rfl rfl rfl
  · exact exec_tick_of_segmentEnds hg hs b (advance_of_hdrSpace_repeat h hr) rfl rfl rfl
  · exact exec_tick_of_segmentEnds hg hs b (advance_of_stopMark h) rfl rfl rfl
  · exact exec_tick_of_segmentEnds hg hs b (advance_of_gap_repeat h hr) rfl rfl rfl

/-- The index of the next data bit does not wrap: a frame has at most 32 bits (R97 W3). -/
theorem bitIdx_add_one_toNat {k : BitVec 5} {n : Nat} (hn : n ≤ 32) (hk : k.toNat + 1 < n) :
    (k + 1#5).toNat = k.toNat + 1 := by
  bv_omega

theorem State.Good.encDesc_wf {s : State} (hg : s.Good) (ha : s.enc.active = true) :
    s.encDesc.WF :=
  hg.1.desc (hg.encInv.sending ha).2.desc_lt

/-- Settles O30: the two halves of a data bit, and what follows the last one. -/
theorem dataBitSegments : Obligations.DataBitSegments := by
  intro s b hg hs
  refine ⟨fun h hr => ?_, fun h => ?_, fun h hk => ?_, fun h hk => ?_⟩
  · exact exec_tick_of_segmentEnds hg hs b (advance_of_hdrSpace_full h hr)
      (loadBitA_eq _ _) rfl rfl
  · exact exec_tick_of_segmentEnds hg hs b (advance_of_bitA h) (loadBitB_eq _ _) rfl rfl
  · have hidx := bitIdx_add_one_toNat (hg.encDesc_wf hs.1).nbits_le hk
    rw [← hidx]
    exact exec_tick_of_segmentEnds hg hs b (advance_of_bitB_more h hk) (loadBitA_eq _ _) rfl rfl
  · have hadv := advance_of_bitB_last (e := s.enc.segmentOver s.encDesc) h hk
    split at hadv
    · rw [if_pos ‹_›]
      exact exec_tick_of_segmentEnds hg hs b hadv rfl rfl rfl
    · rw [if_neg ‹_›]
      exact exec_tick_of_segmentEnds hg hs b hadv rfl rfl rfl

/-- Settles O31: the last gap advances to the idle encoder, and the switch to receive restores `snap`. -/
theorem lastGapFinishesSend : Obligations.LastGapFinishesSend := by
  intro s b hg ⟨ha, hsub, hdur⟩ hphase hrep
  have hcount : encCount s.encDesc s.enc = (endGapLast (s.enc.segmentOver s.encDesc), true) :=
    (encCount_of_segmentEnd _ hsub hdur).trans (advance_of_gap_last hphase hrep)
  rw [exec_tick_of_active hg ha]
  rcases encTick_cases s with ⟨hn, -⟩ | ⟨r, -, hr, hgo, -⟩ | ⟨r, -, hr, -, heq⟩
  · exact absurd (hn.symm.trans ha) (by decide)
  · exact absurd (hgo.symm.trans (congrArg Prod.snd (hr.trans hcount))) Bool.false_ne_true
  · rw [heq, hr.trans hcount, drivePin_of_not_active rfl, TickOut.finish, tickResponse_sendDone]
    rfl

/-! ## The pin (R226) -/

/-- A segment's end leaves `enc_desc` and `pin_on` alone (R207 to R217). -/
theorem advance_frame (d : Desc) (e : EncRegs) :
    (advance d e).1.desc = e.desc ∧ (advance d e).1.pinOn = e.pinOn := by
  cases h : e.phase with
  | start => rw [advance_of_start h]; exact ⟨rfl, rfl⟩
  | hdrMark => rw [advance_of_hdrMark h]; exact ⟨rfl, rfl⟩
  | hdrSpace =>
    cases hr : e.rptFrame with
    | true => rw [advance_of_hdrSpace_repeat h hr]; exact ⟨rfl, rfl⟩
    | false => rw [advance_of_hdrSpace_full h hr, loadBitA_eq]; exact ⟨rfl, rfl⟩
  | bitA => rw [advance_of_bitA h, loadBitB_eq]; exact ⟨rfl, rfl⟩
  | bitB =>
    by_cases hk : e.bitIdx.toNat + 1 < d.nbits
    · rw [advance_of_bitB_more h hk, loadBitA_eq]; exact ⟨rfl, rfl⟩
    · rw [advance_of_bitB_last h hk]
      split <;> exact ⟨rfl, rfl⟩
  | stopMark => rw [advance_of_stopMark h]; exact ⟨rfl, rfl⟩
  | gap =>
    by_cases hr : e.repLeft = 0#4
    · rw [advance_of_gap_last h hr]; exact ⟨rfl, rfl⟩
    · rw [advance_of_gap_repeat h hr]; exact ⟨rfl, rfl⟩

/-- Counting leaves `enc_desc` alone, and `pin_on` to `drive_pin` (R206). -/
theorem encCount_frame (d : Desc) (e : EncRegs) :
    (encCount d e).1.desc = e.desc ∧ (encCount d e).1.pinOn = e.pinOn := by
  unfold encCount
  simp only
  split
  · split
    · exact advance_frame d _
    · exact ⟨rfl, rfl⟩
  · exact ⟨rfl, rfl⟩

/-- The pin after an encoder tick: low in a space and without a send, and with `CARRIER = TOGGLE` low
in a mark after a tick of a mark in which it was high (R226). -/
theorem encTick_pinOn (s : State) :
    (encTick s).state.enc.pinOn = ((encTick s).state.enc.active && ((encTick s).state.enc.level &&
      !(decide (s.cfg.carrier = .toggle) && s.enc.level && s.enc.pinOn))) := by
  rcases encTick_cases s with ⟨ha, heq⟩ | ⟨r, -, rfl, -, heq⟩ | ⟨r, -, rfl, -, heq⟩ <;> rw [heq]
  · simp [ha]
  · simp only [quiet_state, drivePin_eq, encCount_frame]
  · simp only [switchToRx_enc, drivePin_eq, encCount_frame]

/-- Settles O32: `encTick_pinOn`, split by the carrier and by the envelope before the tick. -/
theorem pinDriveRule : Obligations.PinDriveRule := by
  intro s b hg hm
  refine ⟨_, exec_tick_of_tx hm (encFault_eq_none hg.encInv) b, ?_, ?_⟩
  · rw [finish_enc, encTick_pinOn]
    cases (encTick s).state.enc.active with
    | false => rfl
    | true =>
      cases (encTick s).state.enc.level with
      | false => rfl
      | true =>
        cases s.cfg.carrier with
        | level => rfl
        | toggle => cases s.enc.level <;> rfl
  · obtain ⟨hcfg, -⟩ := encTick_frame s
    rw [State.pin, finish_cfg, hcfg]

end Sys2Proof.Machine

namespace Sys2Proof.Machine

/-! ## A whole send (R203, R219)

What a send still has to play is read off the encoder registers: the rest of the current segment, the
segments after it in its frame, and the repetitions. Each tick takes one level off that list
(`encCount_plays`), so a send is played by induction on the ticks. -/

/-- The segments after the last data bit: the stop mark, if any, and the gap (R214, R219). -/
def afterBits (d : Desc) : List (Bool × Nat) :=
  (if d.hasStop then [(true, d.p0Pulse.exp.toNat)] else []) ++ [(false, d.gap.toNat)]

/-- The segments of the data bits from bit `k` on (R219). -/
def bitsFrom (d : Desc) (frame : BitVec 32) (k : Nat) : List (Bool × Nat) :=
  (List.range' k (d.nbits - k)).flatMap (bitSegs d frame)

/-- A frame of a send: the repeat code, or the full frame (R218, R219). -/
def sentFrame (d : Desc) (frame : BitVec 32) (rpt : Bool) : List (Bool × Nat) :=
  if rpt then repeatSegs d else frameSegs d frame

theorem frameSegs_eq (d : Desc) (frame : BitVec 32) :
    frameSegs d frame = (true, d.hdrPulse.exp.toNat) :: (false, d.hdrPause.exp.toNat) ::
      (bitsFrom d frame 0 ++ afterBits d) := by
  simp [frameSegs, bitsFrom, afterBits, List.range_eq_range']

theorem bitsFrom_of_lt {d : Desc} {k : Nat} (hk : k < d.nbits) (frame : BitVec 32) :
    bitsFrom d frame k = bitSegs d frame k ++ bitsFrom d frame (k + 1) := by
  have hlen : d.nbits - k = d.nbits - (k + 1) + 1 := by omega
  rw [bitsFrom, hlen, List.range'_succ, List.flatMap_cons]
  rfl

theorem bitsFrom_of_le {d : Desc} {k : Nat} (hk : d.nbits ≤ k) (frame : BitVec 32) :
    bitsFrom d frame k = [] := by
  rw [bitsFrom, Nat.sub_eq_zero_of_le hk]
  rfl

/-- The segment being sent: its level and the logical ticks left of it. -/
def EncRegs.segment (e : EncRegs) : Bool × Nat := (e.level, e.dur.toNat)

/-- The segments of the current frame after the one being sent (R207 to R215). -/
def EncRegs.restOfFrame (d : Desc) (e : EncRegs) : List (Bool × Nat) :=
  match e.phase with
  | .start => sentFrame d e.frame e.rptFrame
  | .hdrMark => (sentFrame d e.frame e.rptFrame).drop 1
  | .hdrSpace => (sentFrame d e.frame e.rptFrame).drop 2
  | .bitA => (bitSegs d e.frame e.bitIdx.toNat).drop 1 ++
      (bitsFrom d e.frame (e.bitIdx.toNat + 1) ++ afterBits d)
  | .bitB => bitsFrom d e.frame (e.bitIdx.toNat + 1) ++ afterBits d
  | .stopMark => [(false, d.gap.toNat)]
  | .gap => []

/-- The segments of the send after the one being sent: the rest of the frame and the repetitions. -/
def EncRegs.rest (d : Desc) (e : EncRegs) : List (Bool × Nat) :=
  e.restOfFrame d ++ (List.replicate e.repLeft.toNat (sentFrame d e.frame d.hasRpt)).flatten

/-- The two segments of a data bit are those that `load_bit` loads (R211, R219). -/
theorem bitSegs_eq (d : Desc) (e : EncRegs) :
    bitSegs d e.frame e.bitIdx.toNat = [(loadBitA d e).segment, (loadBitB d e).segment] := by
  unfold bitSegs loadBitA loadBitB EncRegs.segment
  cases d.isManchester with
  | true => rfl
  | false => cases d.wire e.frame e.bitIdx.toNat <;> rfl

/-! Each segment loaded is the head of the list that its loading leaves behind. -/

theorem segment_beginHdrMark (d : Desc) (e : EncRegs) :
    sentFrame d e.frame e.rptFrame =
      (beginHdrMark d e).segment :: (beginHdrMark d e).restOfFrame d := by
  simp only [beginHdrMark, EncRegs.segment, EncRegs.restOfFrame, sentFrame, frameSegs_eq]
  cases e.rptFrame <;> rfl

theorem segment_endHdrMark (d : Desc) (e : EncRegs) :
    (sentFrame d e.frame e.rptFrame).drop 1 =
      (endHdrMark d e).segment :: (endHdrMark d e).restOfFrame d := by
  simp only [endHdrMark, EncRegs.segment, EncRegs.restOfFrame, sentFrame, frameSegs_eq]
  cases e.rptFrame <;> rfl

theorem segment_loadBitA {d : Desc} {e : EncRegs} (hp : e.phase = .bitA)
    (hk : e.bitIdx.toNat < d.nbits) :
    bitsFrom d e.frame e.bitIdx.toNat ++ afterBits d =
      (loadBitA d e).segment :: (loadBitA d e).restOfFrame d := by
  have hrest : (loadBitA d e).restOfFrame d = (bitSegs d e.frame e.bitIdx.toNat).drop 1 ++
      (bitsFrom d e.frame (e.bitIdx.toNat + 1) ++ afterBits d) := by
    rw [loadBitA_eq, EncRegs.restOfFrame, hp]
  rw [bitsFrom_of_lt hk, hrest, bitSegs_eq]
  rfl

theorem segment_loadBitB {d : Desc} {e : EncRegs} (hp : e.phase = .bitB) :
    (bitSegs d e.frame e.bitIdx.toNat).drop 1 ++
        (bitsFrom d e.frame (e.bitIdx.toNat + 1) ++ afterBits d) =
      (loadBitB d e).segment :: (loadBitB d e).restOfFrame d := by
  have hrest : (loadBitB d e).restOfFrame d =
      bitsFrom d e.frame (e.bitIdx.toNat + 1) ++ afterBits d := by
    rw [loadBitB_eq, EncRegs.restOfFrame, hp]
  rw [hrest, bitSegs_eq]
  rfl

theorem segment_afterBits (d : Desc) (e : EncRegs) :
    afterBits d =
      (if d.hasStop then beginStopMark d e else beginGap d e).segment ::
        (if d.hasStop then beginStopMark d e else beginGap d e).restOfFrame d := by
  unfold afterBits
  cases d.hasStop <;> rfl

/-- A frame that goes on does not change the repetitions after it. -/
theorem EncRegs.rest_of_restOfFrame {d : Desc} {e e' : EncRegs}
    (hframe : e.restOfFrame d = e'.segment :: e'.restOfFrame d)
    (hrep : e'.repLeft = e.repLeft) (hf : e'.frame = e.frame) :
    e.rest d = e'.segment :: e'.rest d := by
  rw [rest, rest, hframe, hrep, hf, List.cons_append]

/-- The last gap of a frame is followed by the next repetition (R216, R218). -/
theorem EncRegs.rest_endGapRepeat {d : Desc} {e : EncRegs} (hp : e.phase = .gap)
    (hr : e.repLeft ≠ 0#4) :
    e.rest d = (endGapRepeat d e).segment :: (endGapRepeat d e).rest d := by
  have hleft : e.repLeft.toNat = (e.repLeft - 1#4).toNat + 1 := by
    have := one_le_toNat hr
    bv_omega
  have hgap : e.restOfFrame d = [] := by rw [restOfFrame, hp]
  have hnext : sentFrame d e.frame d.hasRpt =
      (endGapRepeat d e).segment :: (endGapRepeat d e).restOfFrame d :=
    segment_beginHdrMark d { e with repLeft := e.repLeft - 1#4, rptFrame := d.hasRpt }
  rw [rest, hgap, hleft, List.replicate_succ, List.flatten_cons, List.nil_append]
  exact congrArg (· ++ _) hnext

/-- The segment that `advance` loads is the next of the send, and with none left it ends the send
(R207 to R217). -/
theorem advance_rest {d : Desc} (hpos : 1 ≤ d.nbits) (hmax : d.nbits ≤ 32) (e : EncRegs) :
    (e.rest d = [] ∧ e.phase = .gap ∧ e.repLeft = 0#4) ∨
    ∃ e', advance d e = (e', false) ∧ e'.sub = e.sub ∧ e.rest d = e'.segment :: e'.rest d := by
  have next {e' : EncRegs} (hadv : advance d e = (e', false)) (hsub : e'.sub = e.sub)
      (hrep : e'.repLeft = e.repLeft) (hf : e'.frame = e.frame)
      (hframe : e.restOfFrame d = e'.segment :: e'.restOfFrame d) :
      ∃ e', advance d e = (e', false) ∧ e'.sub = e.sub ∧ e.rest d = e'.segment :: e'.rest d :=
    ⟨e', hadv, hsub, EncRegs.rest_of_restOfFrame hframe hrep hf⟩
  cases h : e.phase with
  | start =>
    refine .inr (next (advance_of_start h) rfl rfl rfl ?_)
    rw [← segment_beginHdrMark, EncRegs.restOfFrame, h]
  | hdrMark =>
    refine .inr (next (advance_of_hdrMark h) rfl rfl rfl ?_)
    rw [← segment_endHdrMark, EncRegs.restOfFrame, h]
  | hdrSpace =>
    have hrest : e.restOfFrame d = (sentFrame d e.frame e.rptFrame).drop 2 := by
      rw [EncRegs.restOfFrame, h]
    cases hr : e.rptFrame with
    | true =>
      refine .inr (next (advance_of_hdrSpace_repeat h hr) rfl rfl rfl ?_)
      rw [hrest, hr]
      rfl
    | false =>
      refine .inr (next (advance_of_hdrSpace_full h hr) ?_ ?_ ?_ ?_)
      case refine_4 =>
        have hdata : e.restOfFrame d = bitsFrom d e.frame 0 ++ afterBits d := by
          rw [hrest, hr, sentFrame, if_neg Bool.false_ne_true, frameSegs_eq]
          rfl
        rw [hdata]
        exact segment_loadBitA (e := { e with phase := .bitA, bitIdx := 0#5 }) rfl hpos
      all_goals rw [loadBitA_eq]
  | bitA =>
    refine .inr (next (advance_of_bitA h) ?_ ?_ ?_ ?_)
    case refine_4 =>
      rw [← segment_loadBitB rfl, EncRegs.restOfFrame, h]
    all_goals rw [loadBitB_eq]
  | bitB =>
    have hrest : e.restOfFrame d = bitsFrom d e.frame (e.bitIdx.toNat + 1) ++ afterBits d := by
      rw [EncRegs.restOfFrame, h]
    by_cases hk : e.bitIdx.toNat + 1 < d.nbits
    · have hidx := bitIdx_add_one_toNat hmax hk
      rw [← hidx] at hrest
      refine .inr (next (advance_of_bitB_more h hk) ?_ ?_ ?_ ?_)
      case refine_4 =>
        rw [hrest, ← segment_loadBitA rfl (hidx ▸ hk)]
      all_goals rw [loadBitA_eq]
    · rw [bitsFrom_of_le (not_lt.mp hk), List.nil_append, segment_afterBits d e] at hrest
      refine .inr (next (advance_of_bitB_last h hk) ?_ ?_ ?_ hrest)
      all_goals split <;> rfl
  | stopMark =>
    refine .inr (next (advance_of_stopMark h) rfl rfl rfl ?_)
    rw [EncRegs.restOfFrame, h]
    rfl
  | gap =>
    by_cases hr : e.repLeft = 0#4
    · exact .inl ⟨by simp [EncRegs.rest, EncRegs.restOfFrame, h, hr], rfl, hr⟩
    · exact .inr ⟨_, advance_of_gap_repeat h hr, rfl, EncRegs.rest_endGapRepeat h hr⟩

/-- The levels that a send has still to play, one a tick: what is left of the current logical tick, of
the current segment, and of the send (R206, R222). -/
def EncRegs.toPlay (d : Desc) (e : EncRegs) : List Bool :=
  List.replicate e.sub.toNat e.level ++
    (List.replicate (e.dur.toNat - 1) e.level ++ envelope (e.rest d)).flatMap
      (List.replicate d.nSub.toNat)

/-- A new segment plays its whole duration (R222). -/
theorem toPlay_of_new_segment {d : Desc} {e : EncRegs} (hsub : e.sub = d.nSub)
    (hdur : 1 ≤ e.dur.toNat) :
    e.toPlay d = (envelope (e.segment :: e.rest d)).flatMap (List.replicate d.nSub.toNat) := by
  have hlen : e.dur.toNat = e.dur.toNat - 1 + 1 := by omega
  have henv : envelope (e.segment :: e.rest d) =
      List.replicate e.dur.toNat e.level ++ envelope (e.rest d) := List.flatMap_cons
  rw [henv, hlen, List.replicate_succ, List.cons_append, List.flatMap_cons, EncRegs.toPlay, hsub]

/-- The next level to play is the envelope (R43). -/
theorem getElem?_zero_toPlay (d : Desc) {e : EncRegs} (hsub : 1 ≤ e.sub.toNat) :
    (e.toPlay d)[0]? = some e.level := by
  rw [EncRegs.toPlay, List.getElem?_append_left (by rwa [List.length_replicate]),
    List.getElem?_replicate, if_pos (Nat.lt_of_succ_le hsub)]

theorem toPlay_ne_nil (d : Desc) {e : EncRegs} (hsub : 1 ≤ e.sub.toNat) : e.toPlay d ≠ [] := by
  intro hnil
  have hlevel := getElem?_zero_toPlay d hsub
  rw [hnil] at hlevel
  cases hlevel

/-- A tick of a send takes one level off what it has to play, and the last one ends the last gap
(R206, R207). -/
theorem encCount_plays {c : Config} {e : EncRegs} (hc : c.WF) (h : Sending c e) :
    ∃ later, e.toPlay (c.desc e.desc.toNat) = e.level :: later ∧
      ((later = [] ∧ e.sub = 1#8 ∧ e.dur = 1#16 ∧ e.phase = .gap ∧ e.repLeft = 0#4) ∨
       (later ≠ [] ∧ ∃ e', encCount (c.desc e.desc.toNat) e = (e', false) ∧ Sending c e' ∧
          e'.toPlay (c.desc e.desc.toNat) = later)) := by
  obtain ⟨-, -, ⟨-, -, hpos, hmax⟩, ⟨hnsub, -⟩, -⟩ := (Desc.wf_iff _).mp (hc.desc h.desc_lt)
  have hsending := encCount_cases hc h
  have hsub := h.sub_pos
  have hdur := h.dur_pos
  generalize c.desc e.desc.toNat = d at *
  have goesOn {later : List Bool} {e' : EncRegs} (hcount : encCount d e = (e', false))
      (hplay : Sending c e' → e'.toPlay d = later) :
      later ≠ [] ∧ ∃ e', encCount d e = (e', false) ∧ Sending c e' ∧ e'.toPlay d = later := by
    rw [hcount] at hsending
    obtain ⟨-, he'⟩ | ⟨hend, -⟩ := hsending
    · exact ⟨hplay he' ▸ toPlay_ne_nil d he'.sub_pos, e', hcount, he', hplay he'⟩
    · cases hend
  by_cases hwithin : 1 < e.sub.toNat
  · have hlen : e.sub.toNat = (e.sub - 1#8).toNat + 1 := by bv_omega
    exact ⟨EncRegs.toPlay d { e with sub := e.sub - 1#8 },
      by rw [EncRegs.toPlay, hlen, List.replicate_succ]; rfl,
      .inr (goesOn (encCount_of_sub hwithin) fun _ => rfl)⟩
  · have hone : e.sub = 1#8 := by bv_omega
    refine ⟨(List.replicate (e.dur.toNat - 1) e.level ++ envelope (e.rest d)).flatMap
      (List.replicate d.nSub.toNat), by rw [EncRegs.toPlay, hone]; rfl, ?_⟩
    by_cases hlong : 1 < e.dur.toNat
    · refine .inr (goesOn (encCount_of_dur hone hlong) fun he' => ?_)
      have hleft : (e.dur - 1#16).toNat = e.dur.toNat - 1 := by bv_omega
      rw [← hleft, toPlay_of_new_segment rfl he'.dur_pos]
      rfl
    · have hlast : e.dur = 1#16 := by bv_omega
      have hrest : (e.segmentOver d).rest d = e.rest d := rfl
      have hcount := encCount_of_segmentEnd d hone hlast
      rcases advance_rest hpos hmax (e.segmentOver d) with
        ⟨hnil, hphase, hrep⟩ | ⟨e', hadv, hsub', hnext⟩
      · refine .inl ⟨?_, hone, hlast, hphase, hrep⟩
        rw [← hrest, hnil, hlast]
        rfl
      · refine .inr (goesOn (hcount.trans hadv) fun he' => ?_)
        rw [toPlay_of_new_segment hsub' he'.dur_pos, ← hnext, hrest, hlast]
        rfl

/-- A tick of a send that has more to play answers NONE, and plays the next level (R206). -/
theorem exec_tick_plays {s : State} (hg : s.Good) (ha : s.enc.active = true) {l : Bool}
    {later : List Bool} (h : s.enc.toPlay s.encDesc = l :: later) (hlater : later ≠ []) (b : Bool) :
    ∃ e, exec (.tick b) s = .next { s with enc := e, resp := some 0x1000000000000000#64 } ∧
      e.active = true ∧ e.desc = s.enc.desc ∧ e.toPlay s.encDesc = later := by
  obtain ⟨later', hplay, hcases⟩ := encCount_plays hg.1 (hg.encInv.sending ha).2
  obtain ⟨-, rfl⟩ := List.cons.inj (h.symm.trans hplay)
  obtain ⟨hnil, -⟩ | ⟨-, e, hcount, he, hnext⟩ := hcases
  · exact absurd hnil hlater
  · obtain ⟨hdesc, hpin⟩ := encCount_frame (s.cfg.desc s.enc.desc.toNat) s.enc
    rw [hcount] at hdesc hpin
    exact ⟨_, exec_tick_of_encCount hg ha hcount he.active hpin b, he.active, hdesc, hnext⟩

/-- The tick that plays the last level of a send finishes it (R217). -/
theorem exec_tick_plays_last {s : State} (hg : s.Good) (ha : s.enc.active = true) {l : Bool}
    (h : s.enc.toPlay s.encDesc = [l]) (b : Bool) :
    ∃ e, exec (.tick b) s = .next { s with
        enc := e, arb := { mode := .rx, timerCfg := s.arb.snap, snap := s.arb.snap },
        resp := some 0x1000000000000008#64 } ∧
      e.active = false ∧ e.level = false ∧ e.pinOn = false := by
  obtain ⟨later, hplay, hcases⟩ := encCount_plays hg.1 (hg.encInv.sending ha).2
  obtain ⟨-, rfl⟩ := List.cons.inj (h.symm.trans hplay)
  obtain ⟨-, hsub, hdur, hphase, hrep⟩ | ⟨hne, -⟩ := hcases
  · exact ⟨_, lastGapFinishesSend s b hg ⟨ha, hsub, hdur⟩ hphase hrep, rfl, rfl, rfl⟩
  · exact absurd rfl hne

/-- Ticks, fewer than a send has levels to play, play one level each (R206). -/
theorem execAll_ticks_play (bs : List Bool) {s : State} (hg : s.Good) (ha : s.enc.active = true)
    (hlen : bs.length < (s.enc.toPlay s.encDesc).length) :
    ∃ e, execAll (bs.map .tick) s = .next { s with
        enc := e, resp := if bs = [] then s.resp else some 0x1000000000000000#64 } ∧
      Sending s.cfg e ∧ e.toPlay s.encDesc = (s.enc.toPlay s.encDesc).drop bs.length := by
  induction bs generalizing s with
  | nil => exact ⟨s.enc, rfl, (hg.encInv.sending ha).2, rfl⟩
  | cons b bs ih =>
    obtain ⟨l, later, hplay⟩ := List.exists_cons_of_length_pos (Nat.zero_lt_of_lt hlen)
    rw [hplay] at hlen
    have hrest := Nat.lt_of_succ_lt_succ hlen
    obtain ⟨e, htick, hact, hdesc, hnext⟩ := exec_tick_plays hg ha hplay
      (List.ne_nil_of_length_pos (Nat.zero_lt_of_lt hrest)) b
    have hsame : State.encDesc
        { s with enc := e, resp := some 0x1000000000000000#64 } = s.encDesc := by
      simp only [State.encDesc, hdesc]
    obtain ⟨e', hrun, he', hdrop⟩ := ih (exec_keeps_good hg htick) hact (by rwa [hsame, hnext])
    rw [hsame, hnext] at hdrop
    refine ⟨e', ?_, he', by rw [hdrop, hplay]; rfl⟩
    rw [List.map_cons, execAll_cons htick, hrun, ite_self]
    rfl

/-- As many ticks as a send has levels to play finish it (R217, R219). -/
theorem execAll_ticks_finish (bs : List Bool) {s : State} (hg : s.Good)
    (ha : s.enc.active = true) (hlen : bs.length = (s.enc.toPlay s.encDesc).length) :
    ∃ e, execAll (bs.map .tick) s = .next { s with
        enc := e, arb := { mode := .rx, timerCfg := s.arb.snap, snap := s.arb.snap },
        resp := some 0x1000000000000008#64 } ∧
      e.active = false ∧ e.level = false ∧ e.pinOn = false := by
  induction bs generalizing s with
  | nil =>
    exact absurd (List.length_eq_zero_iff.mp hlen.symm)
      (toPlay_ne_nil _ (hg.encInv.sending ha).2.sub_pos)
  | cons b bs ih =>
    obtain ⟨l, later, hplay⟩ := List.exists_cons_of_length_eq_add_one hlen.symm
    rw [hplay] at hlen
    have hrest := Nat.succ.inj hlen
    by_cases hlast : later = []
    · obtain rfl : bs = [] := List.length_eq_zero_iff.mp (by rw [hrest, hlast]; rfl)
      obtain ⟨e, htick, he⟩ := exec_tick_plays_last hg ha (hlast ▸ hplay) b
      exact ⟨e, execAll_cons htick [], he⟩
    · obtain ⟨e, htick, hact, hdesc, hnext⟩ := exec_tick_plays hg ha hplay hlast b
      have hsame : State.encDesc
          { s with enc := e, resp := some 0x1000000000000000#64 } = s.encDesc := by
        simp only [State.encDesc, hdesc]
      obtain ⟨e', hrun, he'⟩ := ih (exec_keeps_good hg htick) hact (by rwa [hsame, hnext])
      exact ⟨e', (execAll_cons htick _).trans hrun, he'⟩

/-! ### The send from its start -/

theorem length_envelope (l : List (Bool × Nat)) : (envelope l).length = segsLength l := by
  simp [envelope, segsLength, List.length_flatMap]

/-- A send that has just been accepted has its `START` tick and all its segments to play (R200, R203). -/
theorem toPlay_startSend (d : Desc) (i : Nat) (a : BitVec 16) (c : BitVec 32) (n : BitVec 4) :
    (startSend d i a c n).toPlay d =
      false :: (envelope (sendSegs d (d.assemble a c) n.toNat)).flatMap
        (List.replicate d.nSub.toNat) := rfl

theorem length_toPlay_startSend (d : Desc) (i : Nat) (a : BitVec 16) (c : BitVec 32)
    (n : BitVec 4) :
    ((startSend d i a c n).toPlay d).length = sendTicks d (d.assemble a c) n.toNat := by
  simp only [toPlay_startSend, List.length_cons, List.length_flatMap, List.length_replicate,
    List.map_const', List.sum_replicate, smul_eq_mul, length_envelope, sendTicks]
  ring

/-- The level after `k` ticks is that of logical tick `(k - 1) / n_sub` (R219, R222). -/
theorem getElem?_flatMap_replicate {l : List Bool} {n k : Nat} (hk : k < n * l.length) :
    (l.flatMap (List.replicate n))[k]? = l[k / n]? := by
  have hn : 0 < n := Nat.pos_of_mul_pos_right (Nat.zero_lt_of_lt hk)
  have hq : k / n < l.length := Nat.div_lt_of_lt_mul hk
  have hlook := getElem?_flatMap_of_length_eq (f := List.replicate n)
    (fun _ => List.length_replicate) l hq (Nat.mod_lt k hn)
  rw [Nat.div_add_mod] at hlook
  rw [hlook, List.getElem?_replicate, if_pos (Nat.mod_lt k hn), List.getElem?_eq_getElem hq]

/-- Settles O34: an accepted `SEND` has a silent tick and the whole send to play, and each tick plays one
level of that list. -/
theorem sendPlaysItsSegments : Obligations.SendPlaysItsSegments := by
  intro s p a c n i hg hm hi hp d frame T
  have hsend := exec_send_of_findProto hm (hp ▸ hg.1.findProto_id hi) a c n
  have hgood := exec_keeps_good hg hsend
  have hdesc : (acceptSend i a c n s).encDesc = d :=
    congrArg s.cfg.desc (hg.1.index_fits hi)
  have hlength := length_toPlay_startSend d i a c n
  have hok : response .ok 0#60 = 0#64 := by decide
  refine ⟨_, hsend, congrArg some hok, fun bs hpos hlt => ?_, fun bs hlen => ?_⟩
  · have hbs : bs ≠ [] := List.ne_nil_of_length_pos hpos
    obtain ⟨e, hrun, he, hplay⟩ := execAll_ticks_play bs hgood rfl (by
      rw [hdesc]
      exact hlt.trans_eq hlength.symm)
    rw [if_neg hbs] at hrun
    rw [hdesc] at hplay
    refine ⟨e, hrun, he.active, ?_⟩
    have hk : bs.length - 1 < d.nSub.toNat * (envelope (sendSegs d frame n.toNat)).length := by
      rw [length_envelope]
      change bs.length < 1 + _ at hlt
      omega
    have hlevel := getElem?_zero_toPlay d he.sub_pos
    rw [← getElem?_flatMap_replicate hk, ← hlevel, hplay, List.getElem?_drop, Nat.add_zero]
    conv_rhs => rw [← Nat.sub_add_cancel hpos]
    rfl
  · exact execAll_ticks_finish bs hgood rfl (by
      rw [hdesc]
      exact hlen.trans hlength.symm)

end Sys2Proof.Machine

namespace Sys2Proof

/-- The mark of a data bit with the wire value `w` (R211). -/
def Desc.bitPulse (d : Desc) (w : Bool) : Timing := if w then d.p1Pulse else d.p0Pulse

/-- The space of a data bit with the wire value `w` (R211). -/
def Desc.bitPause (d : Desc) (w : Bool) : Timing := if w then d.p1Pause else d.p0Pause

end Sys2Proof

namespace Sys2Proof.Machine

/-! ## A full frame as sent (R212, R219, R228)

The samples of a frame are followed in the frame registers by silent runs, bit by bit; the tick after
them emits the result. -/

/-! ### The samples of a frame -/

/-- The segments of a data bit with the wire value `w` (R219). -/
def wireSegs (d : Desc) (w : Bool) : List (Bool × Nat) :=
  if d.isManchester then [(w, d.p1Pulse.exp.toNat), (!w, d.p1Pulse.exp.toNat)]
  else [(true, (d.bitPulse w).exp.toNat), (false, (d.bitPause w).exp.toNat)]

theorem bitSegs_eq_wireSegs (d : Desc) (frame : BitVec 32) (k : Nat) :
    bitSegs d frame k = wireSegs d (d.wire frame k) := by
  unfold bitSegs wireSegs
  cases d.isManchester with
  | true => rfl
  | false => cases d.wire frame k <;> rfl

/-- The wire bits of a frame in the order sent (R205). -/
def wireBits (d : Desc) (frame : BitVec 32) : List Bool := (List.range d.nbits).map (d.wire frame)

@[simp] theorem length_wireBits (d : Desc) (frame : BitVec 32) :
    (wireBits d frame).length = d.nbits := by
  simp [wireBits]

/-- The samples of a header as sent (R219). -/
def headerSamples (d : Desc) : List Bool :=
  List.replicate d.hdrPulse.exp.toNat true ++ List.replicate d.hdrPause.exp.toNat false

/-- The samples of data bits as sent (R219). -/
def bitSamples (d : Desc) (ws : List Bool) : List Bool := envelope (ws.flatMap (wireSegs d))

/-- The samples of the stop mark as sent, if the record has one (R219). -/
def stopSamples (d : Desc) : List Bool :=
  if d.hasStop then List.replicate d.p0Pulse.exp.toNat true else []

/-- The samples of a full frame up to its gap (R219). -/
def samplesBeforeGap (d : Desc) (frame : BitVec 32) : List Bool :=
  headerSamples d ++ bitSamples d (wireBits d frame) ++ stopSamples d

theorem envelope_append (l l' : List (Bool × Nat)) :
    envelope (l ++ l') = envelope l ++ envelope l' := List.flatMap_append

theorem bitSamples_append (d : Desc) (ws ws' : List Bool) :
    bitSamples d (ws ++ ws') = bitSamples d ws ++ bitSamples d ws' := by
  rw [bitSamples, List.flatMap_append, envelope_append]
  rfl

theorem bitSamples_cons (d : Desc) (w : Bool) (ws : List Bool) :
    bitSamples d (w :: ws) = bitSamples d [w] ++ bitSamples d ws := bitSamples_append d [w] ws

theorem envelope_frameSegs (d : Desc) (frame : BitVec 32) :
    envelope (frameSegs d frame) =
      samplesBeforeGap d frame ++ List.replicate d.gap.toNat false := by
  have hbits : (List.range d.nbits).flatMap (bitSegs d frame) =
      (wireBits d frame).flatMap (wireSegs d) := by
    rw [wireBits, List.flatMap_map]
    exact congrArg (fun f => (List.range d.nbits).flatMap f)
      (funext (bitSegs_eq_wireSegs d frame))
  have hstop : envelope (if d.hasStop then [(true, d.p0Pulse.exp.toNat)] else []) =
      stopSamples d := by
    unfold stopSamples
    split <;> simp [envelope]
  rw [frameSegs, hbits, envelope_append, envelope_append, envelope_append, hstop]
  simp [samplesBeforeGap, headerSamples, bitSamples, envelope]

/-- `R228`'s count of samples, from the samples before the gap. -/
theorem segsLength_frameSegs (d : Desc) (frame : BitVec 32) :
    segsLength (frameSegs d frame) = (samplesBeforeGap d frame).length + d.gap.toNat := by
  rw [← length_envelope, envelope_frameSegs, List.length_append, List.length_replicate]

/-! ### The stored bits of a frame -/

theorem shiftIn_append (d : Desc) (x : BitVec 32) (ws ws' : List Bool) :
    shiftIn d x (ws ++ ws') = shiftIn d (shiftIn d x ws) ws' := List.foldl_append

/-- A stored bit is the new bit 0, and moves the bits before it up (R34, R123). -/
theorem getLsbD_shiftIn_singleton (d : Desc) (x : BitVec 32) (w : Bool) {j : Nat} (hj : j < 32) :
    (shiftIn d x [w]).getLsbD j = if j = 0 then (w ^^ d.inv) else x.getLsbD (j - 1) := by
  simp only [shiftIn, List.foldl_cons, List.foldl_nil, BitVec.getLsbD_or, BitVec.getLsbD_shiftLeft,
    BitVec.getLsbD_setWidth, BitVec.getLsbD_ofBool]
  cases j with
  | zero => simp
  | succ j => simp [hj]

/-- The first `k` wire bits of a frame, stored, are the top `k` of its bits (R123, R205). -/
theorem getLsbD_shiftIn_wire (d : Desc) (frame : BitVec 32) {k : Nat} (hk : k ≤ d.nbits) {j : Nat}
    (hj : j < 32) :
    (shiftIn d 0#32 ((List.range k).map (d.wire frame))).getLsbD j =
      (decide (j < k) && frame.getLsbD (d.nbits - k + j)) := by
  induction k generalizing j with
  | zero => simp [shiftIn]
  | succ k ih =>
    have hbit : (d.wire frame k ^^ d.inv) = frame.getLsbD (d.nbits - (k + 1)) := by
      rw [Desc.wire, Bool.xor_assoc, Bool.xor_self, Bool.xor_false, Nat.sub_sub, Nat.add_comm 1]
    rw [List.range_succ, List.map_append, shiftIn_append, List.map_singleton,
      getLsbD_shiftIn_singleton d _ _ hj, hbit]
    cases j with
    | zero => simp
    | succ j =>
      have hidx : d.nbits - (k + 1) + (j + 1) = d.nbits - k + j := by omega
      rw [if_neg j.succ_ne_zero, Nat.add_sub_cancel, ih (by omega) (by omega), hidx]
      simp only [Nat.add_lt_add_iff_right]

/-- The wire bits of an assembled frame, stored, are the frame (R123, R204, R205). -/
theorem shiftIn_wireBits {d : Desc} (hd : d.W3) (a : BitVec 16) (c : BitVec 32) :
    shiftIn d 0#32 (wireBits d (d.assemble a c)) = d.assemble a c := by
  refine BitVec.eq_of_getLsbD_eq fun j hj => ?_
  rw [wireBits, getLsbD_shiftIn_wire d _ le_rfl hj, Nat.sub_self, Nat.zero_add]
  by_cases hlow : j < d.nbits
  · simp [hlow]
  · rw [d.getLsbD_assemble_of_nbits_le hd a c (not_lt.mp hlow), Bool.and_false]

/-! ### Counting on -/

/-- A count at `n`, below its end, goes on past every bound that `n` reaches. -/
theorem not_toNat_satInc_le_of_eq {x : Half} {n : Nat} {b : Int} (hx : x.toNat = n)
    (hn : n < 0xFFFF) (hb : b ≤ (n : Int)) : ¬ ((satInc x).toNat : Int) ≤ b := by
  rw [satInc_toNat_eq_min, hx]
  omega

/-- A count below `n` goes on within a bound that `n` is within. -/
theorem toNat_satInc_le_of_lt {x : Half} {n : Nat} {b : Int} (hx : x.toNat < n) (hn : (n : Int) ≤ b) :
    ((satInc x).toNat : Int) ≤ b := by
  rw [satInc_toNat_eq_min]
  omega

/-- More equal samples count a register on from `u` to `v`. -/
theorem SilentRun.countOn {c : Config} {m : Bool} {f : Half → DecRegs} {u v : Half}
    (huv : u.toNat ≤ v.toNat)
    (next : ∀ x : Half, x.toNat < v.toNat → SilentStep c m (f x) (f (x + 1#16))) :
    SilentRun c (List.replicate (v.toNat - u.toNat) m) (f u) (f v) := by
  have upTo (n : Nat) (hn : u.toNat + n ≤ v.toNat) :
      SilentRun c (List.replicate n m) (f u) (f (u + BitVec.ofNat 16 n)) := by
    induction n with
    | zero => simpa using SilentRun.nil (f u)
    | succ n ih =>
      rw [List.replicate_succ', BitVec.ofNat_add, ← BitVec.add_assoc]
      refine (ih (by omega)).snoc (next _ ?_)
      bv_omega
  have hv : u + BitVec.ofNat 16 (v.toNat - u.toNat) = v := by bv_omega
  simpa only [hv] using upTo (v.toNat - u.toNat) (by omega)

end Sys2Proof.Machine

namespace Sys2Proof.Machine

/-! ### The frame registers within a frame -/

/-- The frame registers of a full frame of record `i`, a record `d`, with the wire bits `ws` stored and
`p` samples of a mark counted that began at the grid position `mid` (R120, R141, R162). -/
def markRegs (d : Desc) (i : Nat) (ws : List Bool) (mid : Bool) (p : Half) : DecRegs :=
  { bitpos := BitVec.ofNat 7 ws.length, pulseTime := p, pauseTime := 0#16, startBitDetected := true,
    waitSpace := false, candValid := true, candIdx := BitVec.ofNat 8 i, rpt := false,
    manMid := mid, data := shiftIn d 0#32 ws }

/-- The frame registers after that mark, with `q` samples of the space after it counted (R142, R163). -/
def spaceRegs (d : Desc) (i : Nat) (ws : List Bool) (mid : Bool) (p q : Half) : DecRegs :=
  { markRegs d i ws mid p with waitSpace := true, pauseTime := q }

/-- A full frame of record `i`, a record `d`, is being received in `r`, with the wire bits `ws` stored. -/
structure InFrame (d : Desc) (i : Nat) (ws : List Bool) (r : DecRegs) : Prop where
  start : r.startBitDetected = true
  candIdx : r.candIdx = BitVec.ofNat 8 i
  rpt : r.rpt = false
  bitpos : r.bitpos = BitVec.ofNat 7 ws.length
  data : r.data = shiftIn d 0#32 ws

theorem inFrame_markRegs (d : Desc) (i : Nat) (ws : List Bool) (mid : Bool) (p : Half) :
    InFrame d i ws (markRegs d i ws mid p) := ⟨rfl, rfl, rfl, rfl, rfl⟩

theorem inFrame_spaceRegs (d : Desc) (i : Nat) (ws : List Bool) (mid : Bool) (p q : Half) :
    InFrame d i ws (spaceRegs d i ws mid p q) := ⟨rfl, rfl, rfl, rfl, rfl⟩

/-- Storing the wire bit `w` in the registers of a frame. -/
theorem markRegs_snoc (d : Desc) (i : Nat) (ws : List Bool) (w mid : Bool) (p : Half) :
    markRegs d i (ws ++ [w]) mid p =
      { markRegs d i ws mid p with
        data := shiftIn d (shiftIn d 0#32 ws) [w], bitpos := BitVec.ofNat 7 ws.length + 1#7 } := by
  simp only [markRegs, shiftIn_append, List.length_append, List.length_singleton, BitVec.ofNat_add]

section
variable {s : State} {i : Nat} {ws : List Bool}

theorem InFrame.bitpos_toInt {d : Desc} {r : DecRegs} (h : InFrame d i ws r)
    (hn : d.nbits ≤ 32) (hws : ws.length ≤ d.nbits) : r.bitpos.toInt = ws.length := by
  rw [h.bitpos, BitVec.toInt_eq_toNat_cond, BitVec.toNat_ofNat]
  omega

theorem InFrame.dataFrame {d : Desc} {r : DecRegs} (h : InFrame d i ws r)
    (hn : d.nbits ≤ 32) (hws : ws.length ≤ d.nbits) : DataFrame d r := by
  have hpos := h.bitpos_toInt hn hws
  exact ⟨h.rpt, by omega, by omega, hn⟩

variable (hc : s.cfg.WF) (hi : i < s.cfg.nproto) (h : InFrame (s.cfg.desc i) i ws s.dec)
include hc hi h

theorem InFrame.candIdx_toNat : s.dec.candIdx.toNat = i := by
  rw [h.candIdx, hc.index_fits hi]

theorem InFrame.cand : s.cand = s.cfg.desc i := by
  rw [State.cand, h.candIdx_toNat hc hi]

variable (hws : ws.length ≤ (s.cfg.desc i).nbits)
include hws

theorem InFrame.bitpos_ne_idle : s.dec.bitpos ≠ bitposIdle := by
  intro hidle
  have hpos := h.bitpos_toInt (hc.desc hi).nbits_le hws
  rw [hidle, bitposIdle_toInt] at hpos
  omega

theorem InFrame.decFault_eq_none : decFault s = none := by
  have hpos := h.bitpos_toInt (hc.desc hi).nbits_le hws
  unfold decFault
  split
  · rfl
  · rw [if_neg (by omega), if_neg (by rw [h.candIdx_toNat hc hi]; exact not_le.mpr hi)]

/-- The named state within a frame: the stop bit is expected when all bits are stored (R21). -/
theorem InFrame.decState : s.decState =
    if ws.length = (s.cfg.desc i).nbits ∧ (s.cfg.desc i).hasStop = true then .stopBitExpected
    else .receivingBits := by
  have hpos := h.bitpos_toInt (hc.desc hi).nbits_le hws
  have hidle := h.bitpos_ne_idle hc hi hws
  simp only [State.decState, State.nbitsEff, h.start, h.rpt, h.cand hc hi, hpos, hidle,
    Bool.not_true, Bool.false_eq_true, if_false, Bool.and_eq_true, decide_eq_true_eq, Nat.cast_inj]

/-- A tick while a bit of a frame that is not Manchester is to come (R140). -/
theorem exec_tick_of_bit (hl : s.Listening) (hman : (s.cfg.desc i).isManchester = false)
    (hlt : ws.length < (s.cfg.desc i).nbits) (m : Bool) :
    exec (.tick (s.sample m)) s = .next (bitTick m (s.cfg.desc i) (countRep s)).finish := by
  have hstate := h.decState hc hi hws
  rw [if_neg fun hfull => hlt.ne hfull.1] at hstate
  have hcand := h.cand hc hi
  rw [exec_tick_of_listening hl (h.decFault_eq_none hc hi hws), ← hcand,
    decSample_of_receivingBits (s := countRep s) hstate (hcand ▸ hman)]
  rfl

/-- A tick in the stop mark of a frame (R146). -/
theorem exec_tick_of_stop (hl : s.Listening) (hstop : (s.cfg.desc i).hasStop = true)
    (hfull : ws.length = (s.cfg.desc i).nbits) (m : Bool) :
    exec (.tick (s.sample m)) s = .next (stopTick m (s.cfg.desc i) (countRep s)).finish := by
  have hstate := h.decState hc hi hws
  rw [if_pos ⟨hfull, hstop⟩] at hstate
  have hcand := h.cand hc hi
  have hman := (hc.desc hi).not_manchester_of_hasStop hstop
  rw [exec_tick_of_listening hl (h.decFault_eq_none hc hi hws), ← hcand,
    decSample_of_stopBitExpected (s := countRep s) hstate (hcand ▸ hman)]
  rfl

/-- A tick in a Manchester frame, which has no stop bit (R161, R97 W7). -/
theorem exec_tick_of_man (hl : s.Listening) (hman : (s.cfg.desc i).isManchester = true)
    (m : Bool) :
    exec (.tick (s.sample m)) s = .next (manTick m (s.cfg.desc i) (countRep s)).finish := by
  have hnostop : ¬ (s.cfg.desc i).hasStop = true := fun hstop =>
    absurd (hman.symm.trans ((hc.desc hi).not_manchester_of_hasStop hstop)) (by decide)
  have hstate := h.decState hc hi hws
  rw [if_neg fun hfull => hnostop hfull.2] at hstate
  have hcand := h.cand hc hi
  rw [exec_tick_of_listening hl (h.decFault_eq_none hc hi hws), ← hcand,
    decSample_of_manchester (s := countRep s) hstate (hcand ▸ hman)]
  rfl

end

/-! ### The header of a full frame (R115 to R121) -/

section
variable {c : Config} {i : Nat}

/-- A mark that fits the header of a record begins the header space (R116, R117). -/
theorem silentStep_headerMarkEnd (hi : i < c.nproto) {p : Half} (hp : (c.desc i).hdrPulse.Has p)
    (hpos : p ≠ 0#16) : SilentStep c false (leadingMark p) (headerSpaceRegs p 1#16) := by
  rintro s rfl hl hr
  obtain ⟨-, hbegins, -⟩ := leadingMarkEnds s hl (by rw [hr]; rfl)
  rw [hr] at hbegins
  exact hbegins hpos ⟨_, s.cfg.desc_mem i hi, .inl hp⟩

/-- The header space is counted while it may still be the header of a record (R118, R119). -/
theorem silentStep_headerSpace (hi : i < c.nproto) {p x : Half} (hp : (c.desc i).hdrPulse.Has p)
    (hx : ((satInc x).toNat : Int) ≤ (c.desc i).hdrPause.max +
      (if (c.desc i).isManchester then (c.desc i).p1Pulse.max else 0)) :
    SilentStep c false (headerSpaceRegs p x) (headerSpaceRegs p (satInc x)) := by
  rintro s rfl hl hr
  rw [headerSpaceCounts s hl (decState_headerSpaceRegs hr), hr, if_pos]
  · rfl
  · exact List.any_eq_true.mpr ⟨_, s.cfg.desc_mem i hi,
      Bool.or_eq_true_iff.mpr (.inl (decide_eq_true ⟨hp, hx⟩))⟩

/-- The mark after a header that no earlier record fits starts the mark of bit 0 (R120, R122). -/
theorem silentStep_normalHeader (hc : c.WF) (hi : i < c.nproto) {p q : Half}
    (hfits : Normal (c.desc i) p q) (hbelow : ∀ j < i, NoHeader (c.desc j) p q) :
    SilentStep c true (headerSpaceRegs p q) (markRegs (c.desc i) i [] false 1#16) := by
  rintro s rfl hl hr
  obtain ⟨henter, -⟩ := headerMatchEnters s hc hl (decState_headerSpaceRegs hr)
  rw [hr] at henter
  obtain ⟨hnormal, -⟩ := henter i hi hbelow
  exact hnormal hfits

/-- The mark after a shifted header starts in the middle of bit 0, a 0 (R120, R121). -/
theorem silentStep_shiftedHeader (hc : c.WF) (hi : i < c.nproto) {p q : Half}
    (hfits : Shifted (c.desc i) p q) (hbelow : ∀ j < i, NoHeader (c.desc j) p q) :
    SilentStep c true (headerSpaceRegs p q) (markRegs (c.desc i) i [false] true 1#16) := by
  rintro s rfl hl hr
  obtain ⟨henter, -⟩ := headerMatchEnters s hc hl (decState_headerSpaceRegs hr)
  rw [hr] at henter
  obtain ⟨-, hshifted, -⟩ := henter i hi hbelow
  have hdata : ∀ b : Bool, (if b then 1#32 else 0#32) =
      0#32 <<< 1 ||| (BitVec.ofBool (false ^^ b)).zeroExtend 32 := by decide
  rw [hshifted hfits, hdata]
  rfl

/-- The header as sent is silent and leaves its two durations counted (R115 to R119). -/
theorem silentRun_header (hc : c.WF) (hi : i < c.nproto) :
    SilentRun c (headerSamples (c.desc i)) .cleared
      (headerSpaceRegs (c.desc i).hdrPulse.exp (c.desc i).hdrPause.exp) := by
  obtain ⟨-, -, -, -, ⟨hpulse, hpause, ⟨hhalf, -⟩, -⟩, -⟩ := (Desc.wf_iff _).mp (hc.desc hi)
  have hp := Timing.has_exp (c.desc i).hdrPulse
  have hpos := exp_pos_of_inRange hpulse
  have mark : SilentRun c (List.replicate (c.desc i).hdrPulse.exp.toNat true) .cleared
      (leadingMark (c.desc i).hdrPulse.exp) :=
    .count hpos (silentStep_leadingMark c 0#16)
      fun x hx => satInc_of_lt hx ▸ silentStep_leadingMark c x
  have space : SilentRun c (List.replicate (c.desc i).hdrPause.exp.toNat false)
      (leadingMark (c.desc i).hdrPulse.exp)
      (headerSpaceRegs (c.desc i).hdrPulse.exp (c.desc i).hdrPause.exp) := by
    refine .count (exp_pos_of_inRange hpause)
      (silentStep_headerMarkEnd hi hp fun h0 => absurd hpos (by simp [h0]))
      fun x hx => satInc_of_lt hx ▸ silentStep_headerSpace hi hp ?_
    have hle := Timing.toNat_satInc_le_max hx
    unfold Timing.min at hhalf
    unfold Timing.max at *
    split <;> omega
  exact mark.append space

end

end Sys2Proof.Machine

namespace Sys2Proof.Machine

/-! ### The bits of a frame that is not Manchester (R140 to R144) -/

theorem bitFits_iff (d : Desc) (w : Bool) (p q : Half) :
    BitFits d w p q ↔ (d.bitPulse w).Has p ∧ (d.bitPause w).Has q := by
  cases w <;> exact Iff.rfl

theorem bitSamples_singleton {d : Desc} (hman : d.isManchester = false) (w : Bool) :
    bitSamples d [w] = List.replicate (d.bitPulse w).exp.toNat true ++
      List.replicate (d.bitPause w).exp.toNat false := by
  simp [bitSamples, wireSegs, hman, envelope]

section
variable {c : Config} {i : Nat} {ws : List Bool} (hc : c.WF) (hi : i < c.nproto)
  (hman : (c.desc i).isManchester = false) (hlt : ws.length < (c.desc i).nbits)
include hc hi hman hlt

/-- The mark of a bit is counted within the longer of the two marks (R141). -/
theorem silentStep_bitMark {x : Half} {w : Bool}
    (hx : ((satInc x).toNat : Int) ≤ ((c.desc i).bitPulse w).max) :
    SilentStep c true (markRegs (c.desc i) i ws false x)
      (markRegs (c.desc i) i ws false (satInc x)) := by
  rintro s rfl hl hr
  have hcount : ((satInc s.dec.pulseTime).toNat : Int) ≤
      max (s.cfg.desc i).p1Pulse.max (s.cfg.desc i).p0Pulse.max := by
    rw [hr]
    cases w with
    | true => exact le_max_of_le_left hx
    | false => exact le_max_of_le_right hx
  have hmark : s.dec.waitSpace = false := by rw [hr]; rfl
  rw [exec_tick_of_bit hc hi (hr ▸ inFrame_markRegs _ i ws false x) hlt.le hl hman hlt, bitTick,
    countRep_dec, hmark, if_neg Bool.false_ne_true, if_pos rfl, bitMarkOn,
    finish_quiet_or_abandon s _ (atMost_iff _ _), countRep_dec, if_pos hcount, hr]
  rfl

/-- The mark of a bit that fits ends in its space (R142). -/
theorem silentStep_bitMarkEnd {p : Half} {w : Bool} (hp : ((c.desc i).bitPulse w).Has p) :
    SilentStep c false (markRegs (c.desc i) i ws false p)
      (spaceRegs (c.desc i) i ws false p 1#16) := by
  rintro s rfl hl hr
  have hfits : (s.cfg.desc i).p1Pulse.Has s.dec.pulseTime ∨
      (s.cfg.desc i).p0Pulse.Has s.dec.pulseTime := by
    rw [hr]
    cases w with
    | true => exact .inl hp
    | false => exact .inr hp
  have hmark : s.dec.waitSpace = false := by rw [hr]; rfl
  rw [exec_tick_of_bit hc hi (hr ▸ inFrame_markRegs _ i ws false p) hlt.le hl hman hlt, bitTick,
    countRep_dec, hmark, if_neg Bool.false_ne_true, if_neg Bool.false_ne_true, bitMarkEnd,
    finish_quiet_or_abandon s _ (within_p1Pulse_or_p0Pulse_iff _ _), countRep_dec, if_pos hfits, hr]
  rfl

/-- A tick in the space of a bit is R143's or R144's rule. -/
theorem exec_tick_of_spaceRegs {s : State} (hs : s.cfg = c) (hl : s.Listening) {p q : Half}
    (hr : s.dec = spaceRegs (c.desc i) i ws false p q) (m : Bool) :
    exec (.tick (s.sample m)) s = .next
      (if m then bitSpaceEnd (c.desc i) (countRep s)
       else bitSpaceOn (c.desc i) (countRep s)).finish := by
  subst hs
  have hspace : s.dec.waitSpace = true := by rw [hr]; rfl
  rw [exec_tick_of_bit hc hi (hr ▸ inFrame_spaceRegs _ i ws false p q) hlt.le hl hman hlt, bitTick,
    countRep_dec, hspace, if_pos rfl]

/-- The space of a bit is counted while it fits the bit of the mark (R143). -/
theorem silentStep_bitSpace {p x : Half} {w : Bool} (hp : ((c.desc i).bitPulse w).Has p)
    (hx : ((satInc x).toNat : Int) ≤ ((c.desc i).bitPause w).max) :
    SilentStep c false (spaceRegs (c.desc i) i ws false p x)
      (spaceRegs (c.desc i) i ws false p (satInc x)) := by
  rintro s rfl hl hr
  rw [exec_tick_of_spaceRegs hc hi hman hlt rfl hl hr, if_neg Bool.false_ne_true, bitSpaceOn_eq,
    countRep_dec, hr, if_pos]
  · exact congrArg _ (finish_quiet_countRep s _)
  · cases w with
    | true => exact .inl ⟨hp, hx⟩
    | false => exact .inr ⟨hp, hx⟩

/-- The mark after a bit that fits stores it, unless it was the last of a frame without stop bit
(R144). -/
theorem silentStep_bitStored {p q : Half} {w : Bool} (hfits : BitFits (c.desc i) w p q)
    (hmore : ¬ (ws.length + 1 = (c.desc i).nbits ∧ (c.desc i).hasStop = false)) :
    SilentStep c true (spaceRegs (c.desc i) i ws false p q)
      (markRegs (c.desc i) i (ws ++ [w]) false 1#16) := by
  rintro s rfl hl hr
  have hin : InFrame (s.cfg.desc i) i ws s.dec := hr ▸ inFrame_spaceRegs _ i ws false p q
  have hd := hc.desc hi
  have hpos := hin.bitpos_toInt hd.nbits_le hlt.le
  have hroom : s.dec.bitpos.toInt < ((s.cfg.desc i).nbits : Int) := by omega
  have hinc := bitpos_add_one_toInt (by omega) hd.nbits_le hroom
  have hvalue : bitValue (s.cfg.desc i) s.dec.pulseTime s.dec.pauseTime = some w := by
    rw [hr]
    exact bitValue_of_bitFits hd hman hfits
  rw [exec_tick_of_spaceRegs hc hi hman hlt rfl hl hr, if_pos rfl, bitSpaceEnd, countRep_dec,
    hvalue]
  simp only [storeBit_of_lt hin.rpt hroom, hinc, hpos, Bool.and_eq_true, decide_eq_true_eq,
    Bool.not_eq_true']
  rw [if_neg (by exact_mod_cast hmore), finish_quiet_countRep, markRegs_snoc, hr]
  rfl

/-- A bit as sent is silent: its mark and its space are counted (R140 to R143). -/
theorem silentRun_bit {r : DecRegs} (w : Bool)
    (first : SilentStep c true r (markRegs (c.desc i) i ws false 1#16)) :
    SilentRun c (bitSamples (c.desc i) [w]) r
      (spaceRegs (c.desc i) i ws false ((c.desc i).bitPulse w).exp ((c.desc i).bitPause w).exp) := by
  obtain ⟨-, -, -, -, ⟨-, -, hpulse1, hpause1, hpulse0, hpause0, -⟩, -⟩ :=
    (Desc.wf_iff _).mp (hc.desc hi)
  have hpulse : ((c.desc i).bitPulse w).InRange := by cases w <;> assumption
  have hpause : ((c.desc i).bitPause w).InRange := by cases w <;> assumption
  have hp := Timing.has_exp ((c.desc i).bitPulse w)
  rw [bitSamples_singleton hman]
  refine (SilentRun.count (f := markRegs (c.desc i) i ws false) (exp_pos_of_inRange hpulse) first
    fun x hx => ?_).append (.count (exp_pos_of_inRange hpause)
      (silentStep_bitMarkEnd hc hi hman hlt hp) fun x hx => ?_)
  · exact satInc_of_lt hx ▸ silentStep_bitMark hc hi hman hlt (Timing.toNat_satInc_le_max hx)
  · exact satInc_of_lt hx ▸ silentStep_bitSpace hc hi hman hlt hp (Timing.toNat_satInc_le_max hx)

end

section
variable {c : Config} {i : Nat} (hc : c.WF) (hi : i < c.nproto)
  (hman : (c.desc i).isManchester = false)
include hc hi hman

/-- The bits `us` and then `w`, the last of them, are silent: each mark but the first stores the bit
before it (R144). -/
theorem silentRun_bits (us : List Bool) (w : Bool) {ws : List Bool} {r : DecRegs}
    (first : SilentStep c true r (markRegs (c.desc i) i ws false 1#16))
    (hlen : ws.length + us.length < (c.desc i).nbits) :
    SilentRun c (bitSamples (c.desc i) (us ++ [w])) r
      (spaceRegs (c.desc i) i (ws ++ us) false ((c.desc i).bitPulse w).exp
        ((c.desc i).bitPause w).exp) := by
  induction us generalizing ws r with
  | nil =>
    rw [List.append_nil]
    exact silentRun_bit hc hi hman hlen w first
  | cons u us ih =>
    rw [List.length_cons] at hlen
    have hlt : ws.length < (c.desc i).nbits := by omega
    have stored : SilentStep c true _ (markRegs (c.desc i) i (ws ++ [u]) false 1#16) :=
      silentStep_bitStored hc hi hman hlt
        ((bitFits_iff _ u _ _).mpr ⟨Timing.has_exp _, Timing.has_exp _⟩) (by omega)
    have hrest := ih stored (by rw [List.length_append, List.length_singleton]; omega)
    rw [List.append_assoc] at hrest
    rw [List.cons_append, bitSamples_cons]
    exact (silentRun_bit hc hi hman hlt u first).append hrest

end

end Sys2Proof.Machine

namespace Sys2Proof.Machine

/-! ### The tick that emits the result -/

/-- In a listening decoder with the frame registers `r` a space sample completes a full frame of `d`
with the bits `x` (R180). -/
def Emits (c : Config) (d : Desc) (x : BitVec 32) (r : DecRegs) : Prop :=
  ∀ s : State, s.cfg = c → s.Listening → s.dec = r →
    exec (.tick (s.sample false)) s = .next (s.afterFullFrame d x)

/-- A frame as sent is silent up to `j` samples of its gap, and emits its result in the next one, the
tick that R228 names. -/
structure EmitsInGap (c : Config) (d : Desc) (frame : BitVec 32) (j : Nat) : Prop where
  inGap : j + 1 ≤ d.gap.toNat
  samples : samplesBeforeEmit d frame = (samplesBeforeGap d frame).length + j
  run : ∃ r, SilentRun c (samplesBeforeGap d frame ++ List.replicate j false) .cleared r ∧
    Emits c d (shiftIn d 0#32 (wireBits d frame)) r

/-- The wire bits of a frame are some bits and then its last one. -/
theorem wireBits_eq_snoc {d : Desc} (hpos : 1 ≤ d.nbits) (frame : BitVec 32) :
    ∃ us, wireBits d frame = us ++ [d.wire frame (d.nbits - 1)] ∧ us.length + 1 = d.nbits := by
  have hlen : d.nbits = d.nbits - 1 + 1 := by omega
  refine ⟨(List.range (d.nbits - 1)).map (d.wire frame), ?_, by simp [← hlen]⟩
  rw [wireBits]
  conv_lhs => rw [hlen, List.range_succ, List.map_append, List.map_singleton]

/-- The samples of a frame that come before its gap, counted as R228 counts them. -/
theorem samplesBeforeEmit_eq (d : Desc) (frame : BitVec 32) :
    samplesBeforeEmit d frame =
      if d.isManchester then
        (samplesBeforeGap d frame).length -
          (if d.wire frame (d.nbits - 1) then d.p1Pulse.exp.toNat else 0) +
          2 * (d.p1Pulse.exp.toNat + d.p1Pulse.tol.toNat)
      else if d.hasStop then (samplesBeforeGap d frame).length
      else (samplesBeforeGap d frame).length - d.p1Pause.exp.toNat +
        (d.p1Pause.exp.toNat + d.p1Pause.tol.toNat) := by
  rw [samplesBeforeEmit, segsLength_frameSegs, Nat.add_sub_cancel]

theorem toNat_add_of_max_le {t : Timing} (h : t.max ≤ 0xFFFE) :
    (t.exp + t.tol).toNat = t.exp.toNat + t.tol.toNat := by
  unfold Timing.max at h
  rw [BitVec.toNat_add]
  omega

section
variable {c : Config} {i : Nat} (hc : c.WF) (hi : i < c.nproto)
include hc hi

/-! ### A frame with a stop bit -/

/-- The stop mark is counted within the mark of a 0 (R146). -/
theorem silentStep_stopMark {ws : List Bool} (hfull : ws.length = (c.desc i).nbits)
    (hstop : (c.desc i).hasStop = true) {x : Half}
    (hx : ((satInc x).toNat : Int) ≤ (c.desc i).p0Pulse.max) :
    SilentStep c true (markRegs (c.desc i) i ws false x)
      (markRegs (c.desc i) i ws false (satInc x)) := by
  rintro s rfl hl hr
  have hcount : ((satInc s.dec.pulseTime).toNat : Int) ≤ (s.cfg.desc i).p0Pulse.max := by
    rw [hr]
    exact hx
  rw [exec_tick_of_stop hc hi (hr ▸ inFrame_markRegs _ i ws false x) hfull.le hl hstop hfull,
    stopTick, if_pos rfl, finish_quiet_or_abandon s _ (atMost_iff _ _), countRep_dec,
    if_pos hcount, hr]
  rfl

/-- The space after the stop mark completes the frame (R146). -/
theorem emits_stopMark {ws : List Bool} (hfull : ws.length = (c.desc i).nbits)
    (hstop : (c.desc i).hasStop = true) :
    Emits c (c.desc i) (shiftIn (c.desc i) 0#32 ws)
      (markRegs (c.desc i) i ws false (c.desc i).p0Pulse.exp) := by
  rintro s rfl hl hr
  have hin : InFrame (s.cfg.desc i) i ws s.dec := hr ▸ inFrame_markRegs _ i ws false _
  have hfits : (s.cfg.desc i).p0Pulse.Has s.dec.pulseTime := by
    rw [hr]
    exact Timing.has_exp _
  have hcomplete : (complete (countRep s)).finish = _ := finish_complete_fullFrame s hin.rpt
  rw [exec_tick_of_stop hc hi hin hfull.le hl hstop hfull,
    stopTick_space_of_has (s := countRep s) hfits, hcomplete, hin.candIdx_toNat hc hi, hin.data]

/-- The data bits of a frame that is not Manchester are silent from its header on. -/
theorem silentRun_headerAndBits (hman : (c.desc i).isManchester = false) (us : List Bool) (w : Bool)
    (hlen : us.length < (c.desc i).nbits)
    (hbelow : ∀ j < i, NoHeader (c.desc j) (c.desc i).hdrPulse.exp (c.desc i).hdrPause.exp) :
    SilentRun c (headerSamples (c.desc i) ++ bitSamples (c.desc i) (us ++ [w])) .cleared
      (spaceRegs (c.desc i) i us false ((c.desc i).bitPulse w).exp ((c.desc i).bitPause w).exp) := by
  have hfirst := silentStep_normalHeader hc hi
    ⟨Timing.has_exp (c.desc i).hdrPulse, Timing.has_exp (c.desc i).hdrPause⟩ hbelow
  exact (silentRun_header hc hi).append
    (silentRun_bits hc hi hman us w hfirst (by rwa [List.length_nil, Nat.zero_add]))

theorem emitsInGap_of_hasStop (hstop : (c.desc i).hasStop = true) (frame : BitVec 32)
    (hbelow : ∀ j < i, NoHeader (c.desc j) (c.desc i).hdrPulse.exp (c.desc i).hdrPause.exp) :
    EmitsInGap c (c.desc i) frame 0 := by
  have hd := hc.desc hi
  have hman := hd.not_manchester_of_hasStop hstop
  obtain ⟨-, -, ⟨-, -, hpos, -⟩, -, ⟨-, -, -, -, hpulse, -⟩, -, -, -, -, hgap, -⟩ :=
    (Desc.wf_iff _).mp hd
  obtain ⟨us, hsnoc, hus⟩ := wireBits_eq_snoc hpos frame
  have hlt : us.length < (c.desc i).nbits := by omega
  have hfull : (wireBits (c.desc i) frame).length = (c.desc i).nbits := length_wireBits _ _
  refine ⟨hgap, ?_, _, ?_, emits_stopMark hc hi hfull hstop⟩
  · simp only [samplesBeforeEmit_eq, hman, hstop, Bool.false_eq_true, if_false, if_true,
      Nat.add_zero]
  · have bits := silentRun_headerAndBits hc hi hman us ((c.desc i).wire frame ((c.desc i).nbits - 1))
      hlt hbelow
    have stored := silentStep_bitStored hc hi hman hlt
      ((bitFits_iff _ ((c.desc i).wire frame ((c.desc i).nbits - 1)) _ _).mpr
        ⟨Timing.has_exp _, Timing.has_exp _⟩) (by simp [hstop])
    rw [← hsnoc] at bits stored
    rw [samplesBeforeGap, stopSamples, if_pos hstop, List.replicate_zero, List.append_nil]
    exact bits.append (.count (exp_pos_of_inRange hpulse) stored fun x hx =>
      satInc_of_lt hx ▸ silentStep_stopMark hc hi hfull hstop (Timing.toNat_satInc_le_max hx))

/-! ### A frame without stop bit that is not Manchester -/

/-- The space of either bit of such a record is the same, and it ends before the gap would (R97 W8,
W9). -/
theorem lastSpace_of_not_hasStop (hman : (c.desc i).isManchester = false)
    (hstop : (c.desc i).hasStop = false) (w : Bool) :
    (c.desc i).bitPause w = (c.desc i).p1Pause ∧ (c.desc i).p0Pause = (c.desc i).p1Pause ∧
      (c.desc i).p1Pause.max + 1 ≤ ((c.desc i).gap.toNat : Int) ∧
      decide ((c.desc i).p1Pulse.Has ((c.desc i).bitPulse w).exp) = w := by
  obtain ⟨-, -, -, -, -, -, -, w8, w9, -⟩ := (Desc.wf_iff _).mp (hc.desc hi)
  have hlen : (c.desc i).pulseLength = true := by
    cases hlen : (c.desc i).pulseLength with
    | true => rfl
    | false =>
      obtain ⟨-, -, hstop'⟩ := w9 hman hlen
      exact absurd (hstop.symm.trans hstop') (by decide)
  obtain ⟨hpause, hdisj, hgap⟩ := w8 hman hlen
  cases w with
  | true => exact ⟨rfl, hpause.symm, hgap hstop, decide_eq_true (Timing.has_exp _)⟩
  | false =>
    have hzero := Timing.has_exp (c.desc i).p0Pulse
    refine ⟨hpause.symm, hpause.symm, hgap hstop, decide_eq_false fun hone => ?_⟩
    obtain ⟨hlow, hhigh⟩ : (c.desc i).p1Pulse.Has (c.desc i).p0Pulse.exp := hone
    omega

/-- The space sample that outgrows the last bit's space stores the bit of the mark and completes the
frame (R143). -/
theorem emits_lastSpace (hman : (c.desc i).isManchester = false)
    (hstop : (c.desc i).hasStop = false) {us : List Bool} (w : Bool)
    (hlast : us.length + 1 = (c.desc i).nbits) :
    Emits c (c.desc i) (shiftIn (c.desc i) 0#32 (us ++ [w]))
      (spaceRegs (c.desc i) i us false ((c.desc i).bitPulse w).exp
        ((c.desc i).p1Pause.exp + (c.desc i).p1Pause.tol)) := by
  rintro s rfl hl hr
  have hd := hc.desc hi
  obtain ⟨-, -, -, -, ⟨-, -, -, ⟨-, hrange⟩, -⟩, -⟩ := (Desc.wf_iff _).mp hd
  obtain ⟨-, hpause, -, hbit⟩ := lastSpace_of_not_hasStop hc hi hman hstop w
  have hlt : us.length < (s.cfg.desc i).nbits := by omega
  have hin : InFrame (s.cfg.desc i) i us s.dec := hr ▸ inFrame_spaceRegs _ i us false _ _
  have hpos := hin.bitpos_toInt hd.nbits_le hlt.le
  have hbit' : decide ((s.cfg.desc i).p1Pulse.Has s.dec.pulseTime) = w := by
    rw [hr]
    exact hbit
  have hover : ¬ ((satInc s.dec.pauseTime).toNat : Int) ≤ (s.cfg.desc i).p1Pause.max := by
    have hq : s.dec.pauseTime.toNat =
        (s.cfg.desc i).p1Pause.exp.toNat + (s.cfg.desc i).p1Pause.tol.toNat := by
      rw [hr]
      exact toNat_add_of_max_le hrange
    exact not_toNat_satInc_le_of_eq hq (by unfold Timing.max at hrange; omega) le_rfl
  have hstored := storeBit_of_lt (d := s.cfg.desc i)
    (r := { s.dec with pauseTime := satInc s.dec.pauseTime }) hin.rpt
    (show s.dec.bitpos.toInt < _ by omega) w
  have hdone : (complete { countRep s with dec := (storeBit (s.cfg.desc i) w
      { s.dec with pauseTime := satInc s.dec.pauseTime }).1 }).finish =
        s.afterFullFrame (s.cfg.desc i) (shiftIn (s.cfg.desc i) 0#32 (us ++ [w])) := by
    rw [hstored, shiftIn_append, ← hin.data]
    exact (finish_complete_fullFrame s (r := DecRegs.storing (s.cfg.desc i) [w]
      { s.dec with pauseTime := satInc s.dec.pauseTime }) hin.rpt).trans
      (congrArg (fun j => s.afterFullFrame (s.cfg.desc j) _) (hin.candIdx_toNat hc hi))
  rw [exec_tick_of_spaceRegs hc hi hman hlt rfl hl hr, if_neg Bool.false_ne_true, bitSpaceOn_eq,
    countRep_dec, hpause, if_neg (fun h => h.elim (fun h1 => hover h1.2) fun h0 => hover h0.2),
    if_pos ⟨by omega, hstop⟩, hbit', hdone]

theorem emitsInGap_of_not_hasStop (hman : (c.desc i).isManchester = false)
    (hstop : (c.desc i).hasStop = false) (frame : BitVec 32)
    (hbelow : ∀ j < i, NoHeader (c.desc j) (c.desc i).hdrPulse.exp (c.desc i).hdrPause.exp) :
    EmitsInGap c (c.desc i) frame (c.desc i).p1Pause.tol.toNat := by
  obtain ⟨-, -, ⟨-, -, hpos, -⟩, -, ⟨-, -, -, ⟨hmin, hrange⟩, -⟩, -⟩ :=
    (Desc.wf_iff _).mp (hc.desc hi)
  obtain ⟨us, hsnoc, hus⟩ := wireBits_eq_snoc hpos frame
  have hlt : us.length < (c.desc i).nbits := by omega
  generalize (c.desc i).wire frame ((c.desc i).nbits - 1) = w at hsnoc
  obtain ⟨hpause, -, hgap, -⟩ := lastSpace_of_not_hasStop hc hi hman hstop w
  have hbefore : samplesBeforeGap (c.desc i) frame =
      headerSamples (c.desc i) ++ bitSamples (c.desc i) (us ++ [w]) := by
    rw [samplesBeforeGap, stopSamples, if_neg (Bool.eq_false_iff.mp hstop), List.append_nil, hsnoc]
  refine ⟨?_, ?_, _, ?_, hsnoc ▸ emits_lastSpace hc hi hman hstop w hus⟩
  · unfold Timing.min at hmin
    unfold Timing.max at hgap
    omega
  · have hlong : (c.desc i).p1Pause.exp.toNat ≤ (samplesBeforeGap (c.desc i) frame).length := by
      rw [hbefore, bitSamples_append, bitSamples_singleton hman, hpause]
      simp only [List.length_append, List.length_replicate]
      omega
    simp only [samplesBeforeEmit_eq, hman, hstop, Bool.false_eq_true, if_false]
    omega
  · have bits := silentRun_headerAndBits hc hi hman us w hlt hbelow
    have space := SilentRun.countOn (c := c) (m := false)
      (f := spaceRegs (c.desc i) i us false ((c.desc i).bitPulse w).exp)
      (u := (c.desc i).p1Pause.exp) (v := (c.desc i).p1Pause.exp + (c.desc i).p1Pause.tol)
      (by rw [toNat_add_of_max_le hrange]; omega) fun x hx => satInc_of_lt hx ▸
        silentStep_bitSpace hc hi hman hlt (Timing.has_exp _) (by
          rw [hpause]
          exact toNat_satInc_le_of_lt hx (by rw [toNat_add_of_max_le hrange]; exact le_rfl))
    rw [toNat_add_of_max_le hrange, Nat.add_sub_cancel_left] at space
    rw [hbefore]
    exact (hpause ▸ bits).append space

end

end Sys2Proof.Machine

namespace Sys2Proof.Machine

/-! ### The half bits of a Manchester frame (R160 to R166, R212)

A sent frame is a sequence of half bits, and the decoder measures runs of equal ones: a run of two comes
from the second half of a bit and the first half of the next. -/

theorem bitSamples_manchester {d : Desc} (hman : d.isManchester = true) (w : Bool) :
    bitSamples d [w] = List.replicate d.p1Pulse.exp.toNat w ++
      List.replicate d.p1Pulse.exp.toNat (!w) := by
  simp [bitSamples, wireSegs, hman, envelope]

/-- A half bit as sent passes the first half of a bit, or the second half of the bit before. -/
theorem segment_halfBit (d : Desc) (w mid : Bool) :
    Segment d w d.p1Pulse.exp mid (if mid then [] else [w]) (!mid) := by
  cases mid with
  | false => exact .shortFromBoundary (Timing.has_exp _)
  | true => exact .shortFromMid (Timing.has_exp _)

/-- A Manchester record leaves room for two half bits, with their tolerance, in its gap (R97 W7). -/
theorem twoHalfBits_max_lt_gap {d : Desc} (hd : d.WF) (hman : d.isManchester = true) :
    2 * d.p1Pulse.max + 1 ≤ (d.gap.toNat : Int) := by
  obtain ⟨-, -, -, -, -, -, w7, -⟩ := (Desc.wf_iff d).mp hd
  obtain ⟨-, -, -, -, -, -, -, hgap⟩ := w7 hman
  exact hgap

theorem toNat_twoHalfBits {d : Desc} (hd : d.WF) (hman : d.isManchester = true) :
    (d.p1Pulse.exp + d.p1Pulse.exp).toNat = d.p1Pulse.exp.toNat + d.p1Pulse.exp.toNat := by
  have hgap := twoHalfBits_max_lt_gap hd hman
  have hmax := d.gap.isLt
  unfold Timing.max at hgap
  rw [BitVec.toNat_add]
  omega

/-- Two half bits as sent are a long segment. -/
theorem long_twoHalfBits {d : Desc} (hd : d.WF) (hman : d.isManchester = true) :
    Long d (d.p1Pulse.exp + d.p1Pulse.exp) := by
  unfold Long Timing.min Timing.max
  rw [toNat_twoHalfBits hd hman]
  omega

/-- Where the decoder of record `i`, a record `d`, stands after whole half bits as sent: `level` is the
level of the last one, the first halves of the bits `ws` have passed, and `mid` is the place in the bit
grid. The run at `level` is one half bit long on a bit boundary, so that it can go on. -/
inductive HalfBits (d : Desc) (i : Nat) : Bool → List Bool → Bool → DecRegs → Prop where
  | mark {ws us : List Bool} {mid mid' : Bool} {p : Half} (hp : Segment d true p mid us mid')
      (hlen : mid' = false → p = d.p1Pulse.exp) :
      HalfBits d i true (ws ++ us) mid' (markRegs d i ws mid p)
  | space {ws us us' : List Bool} {mid mid₁ mid₂ : Bool} {p q : Half}
      (hp : Segment d true p mid us mid₁) (hq : Segment d false q mid₁ us' mid₂)
      (hlen : mid₂ = false → q = d.p1Pulse.exp) :
      HalfBits d i false (ws ++ us ++ us') mid₂ (spaceRegs d i ws mid p q)

section
variable {c : Config} {i : Nat} {ws : List Bool} (hc : c.WF) (hi : i < c.nproto)
  (hman : (c.desc i).isManchester = true)
include hc hi hman

/-- The mark is counted up to one half bit, or two from mid-bit (R162). -/
theorem silentStep_manMark (hws : ws.length ≤ (c.desc i).nbits) {mid : Bool} {x : Half}
    (hx : ((satInc x).toNat : Int) ≤
      if mid then 2 * (c.desc i).p1Pulse.max else (c.desc i).p1Pulse.max) :
    SilentStep c true (markRegs (c.desc i) i ws mid x) (markRegs (c.desc i) i ws mid (satInc x)) := by
  rintro s rfl hl hr
  have hcount : ((satInc s.dec.pulseTime).toNat : Int) ≤
      if s.dec.manMid then 2 * (s.cfg.desc i).p1Pulse.max else (s.cfg.desc i).p1Pulse.max := by
    rw [hr]
    exact hx
  have hmark : s.dec.waitSpace = false := by rw [hr]; rfl
  rw [exec_tick_of_man hc hi (hr ▸ inFrame_markRegs _ i ws mid x) hws hl hman, manTick,
    countRep_dec, hmark, if_neg Bool.false_ne_true, if_pos rfl, manMarkOn,
    finish_quiet_or_abandon s _ (atMost_iff _ _), countRep_dec, if_pos hcount, hr]
  rfl

/-- A mark that is a segment of the grid ends in the space (R163). -/
theorem silentStep_manMarkEnd (hws : ws.length ≤ (c.desc i).nbits) {mid mid' : Bool} {p : Half}
    {us : List Bool} (hp : Segment (c.desc i) true p mid us mid') :
    SilentStep c false (markRegs (c.desc i) i ws mid p) (spaceRegs (c.desc i) i ws mid p 1#16) := by
  rintro s rfl hl hr
  have hfits : Short (s.cfg.desc i) s.dec.pulseTime ∨
      (s.dec.manMid = true ∧ Long (s.cfg.desc i) s.dec.pulseTime) := by
    rw [hr]
    cases hp with
    | shortFromBoundary hv => exact .inl hv
    | shortFromMid hv => exact .inl hv
    | longFromMid hv => exact .inr ⟨rfl, hv⟩
  have hmark : s.dec.waitSpace = false := by rw [hr]; rfl
  rw [exec_tick_of_man hc hi (hr ▸ inFrame_markRegs _ i ws mid p) hws hl hman, manTick,
    countRep_dec, hmark, if_neg Bool.false_ne_true, if_neg Bool.false_ne_true, manMarkEnd,
    finish_quiet_or_abandon s _ (inS_or_mid_inL_iff _ _ _), countRep_dec, if_pos hfits, hr]
  rfl

/-- A tick in the space of a pair is R164's or R165's rule. -/
theorem exec_tick_of_manSpaceRegs (hws : ws.length ≤ (c.desc i).nbits) {s : State} (hs : s.cfg = c)
    (hl : s.Listening) {mid : Bool} {p q : Half} (hr : s.dec = spaceRegs (c.desc i) i ws mid p q)
    (m : Bool) :
    exec (.tick (s.sample m)) s = .next
      (if m then manPair (c.desc i) (countRep s)
       else manSpaceOn (c.desc i) (countRep s)).finish := by
  subst hs
  have hspace : s.dec.waitSpace = true := by rw [hr]; rfl
  rw [exec_tick_of_man hc hi (hr ▸ inFrame_spaceRegs _ i ws mid p q) hws hl hman, manTick,
    countRep_dec, hspace, if_pos rfl]

/-- The space is counted up to two half bits (R164). -/
theorem silentStep_manSpace (hws : ws.length ≤ (c.desc i).nbits) {mid : Bool} {p x : Half}
    (hx : ((satInc x).toNat : Int) ≤ 2 * (c.desc i).p1Pulse.max) :
    SilentStep c false (spaceRegs (c.desc i) i ws mid p x)
      (spaceRegs (c.desc i) i ws mid p (satInc x)) := by
  rintro s rfl hl hr
  rw [exec_tick_of_manSpaceRegs hc hi hman hws rfl hl hr, if_neg Bool.false_ne_true, manSpaceOn_eq,
    countRep_dec, hr, if_pos]
  · exact congrArg _ (finish_quiet_countRep s _)
  · exact hx

/-- The mark after a pair of two segments stores their bits (R165, R166). -/
theorem silentStep_manPair {mid mid₁ mid₂ : Bool} {us us' : List Bool} {p q : Half}
    (hp : Segment (c.desc i) true p mid us mid₁) (hq : Segment (c.desc i) false q mid₁ us' mid₂)
    (hroom : (ws ++ us ++ us').length ≤ (c.desc i).nbits) :
    SilentStep c true (spaceRegs (c.desc i) i ws mid p q)
      (markRegs (c.desc i) i (ws ++ us ++ us') mid₂ 1#16) := by
  rintro s rfl hl hr
  rw [List.append_assoc] at hroom ⊢
  have hlen : (ws ++ (us ++ us')).length = ws.length + (us ++ us').length := List.length_append
  have hws : ws.length ≤ (s.cfg.desc i).nbits := by omega
  have hin : InFrame (s.cfg.desc i) i ws s.dec := hr ▸ inFrame_spaceRegs _ i ws mid p q
  have hd := hc.desc hi
  have hpos := hin.bitpos_toInt hd.nbits_le hws
  have hwalk : walkPair (s.cfg.desc i) s.dec =
      storeBits (s.cfg.desc i) (us ++ us') mid₂ s.dec := by
    refine walkPair_of_segments hd hman (hin.dataFrame hd.nbits_le hws) ?_ ?_ (mid := mid₁)
    · rw [hr]; exact hp
    · rw [hr]; exact hq
  rw [storeBits, if_pos (by omega)] at hwalk
  rw [exec_tick_of_manSpaceRegs hc hi hman hws rfl hl hr, if_pos rfl,
    manPair_of_walkPair_eq_some (s := countRep s) hwalk]
  refine (congrArg _ (finish_quiet_countRep s _)).trans ?_
  rw [hr]
  simp only [DecRegs.storing, markRegs, spaceRegs, shiftIn_append, List.length_append,
    BitVec.ofNat_add]

/-- A half bit at the other level starts a new run: after a mark it ends the mark, after a space it
stores the pair (R163, R165). -/
theorem silentRun_otherHalfBit {x mid : Bool} {r : DecRegs}
    (h : HalfBits (c.desc i) i x ws mid r) (hws : ws.length ≤ (c.desc i).nbits) :
    ∃ r', SilentRun c (List.replicate (c.desc i).p1Pulse.exp.toNat (!x)) r r' ∧
      HalfBits (c.desc i) i (!x) (ws ++ if mid then [] else [!x]) (!mid) r' := by
  obtain ⟨-, -, -, -, ⟨-, -, hrange, -⟩, -⟩ := (Desc.wf_iff _).mp (hc.desc hi)
  have hmin := hrange.1
  have hhalf := exp_pos_of_inRange hrange
  have hle {y : Half} (hy : y.toNat < (c.desc i).p1Pulse.exp.toNat) :=
    Timing.toNat_satInc_le_max hy
  cases h with
  | @mark ws us mid₀ _ p hp hlen =>
    have hws₀ : ws.length ≤ (c.desc i).nbits := by
      rw [List.length_append] at hws
      omega
    refine ⟨_, .count (f := spaceRegs (c.desc i) i ws mid₀ p) hhalf
      (silentStep_manMarkEnd hc hi hman hws₀ hp) fun y hy => satInc_of_lt hy ▸
        silentStep_manSpace hc hi hman hws₀ ?_, .space hp (segment_halfBit _ false _) fun _ => rfl⟩
    have := hle hy
    unfold Timing.min at hmin
    unfold Timing.max at *
    omega
  | @space ws us us' mid₀ _ _ p q hp hq hlen =>
    refine ⟨_, .count (f := markRegs (c.desc i) i (ws ++ us ++ us') mid) hhalf
      (silentStep_manPair hc hi hman hp hq hws) fun y hy => satInc_of_lt hy ▸
        silentStep_manMark hc hi hman hws ?_, .mark (segment_halfBit _ true mid) fun _ => rfl⟩
    have := hle hy
    unfold Timing.min at hmin
    unfold Timing.max at *
    split <;> omega

/-- A half bit at the same level, from a bit boundary, makes the run two half bits long. -/
theorem silentRun_sameHalfBit {x : Bool} {r : DecRegs}
    (h : HalfBits (c.desc i) i x ws false r) (hws : ws.length ≤ (c.desc i).nbits) :
    ∃ r', SilentRun c (List.replicate (c.desc i).p1Pulse.exp.toNat x) r r' ∧
      HalfBits (c.desc i) i x (ws ++ [x]) true r' := by
  have hd := hc.desc hi
  have htwo := toNat_twoHalfBits hd hman
  have hcount : (c.desc i).p1Pulse.exp.toNat =
      ((c.desc i).p1Pulse.exp + (c.desc i).p1Pulse.exp).toNat - (c.desc i).p1Pulse.exp.toNat := by
    omega
  have hle {y : Half} (hy : y.toNat < ((c.desc i).p1Pulse.exp + (c.desc i).p1Pulse.exp).toNat) :
      ((satInc y).toNat : Int) ≤ 2 * (c.desc i).p1Pulse.max :=
    toNat_satInc_le_of_lt hy (long_twoHalfBits hd hman).2
  rw [hcount]
  cases h with
  | @mark ws us mid₀ _ p hp hlen =>
    obtain rfl := hlen rfl
    cases hp with
    | shortFromMid =>
      rw [List.append_nil] at hws ⊢
      exact ⟨_, .countOn (f := markRegs (c.desc i) i ws true) (by omega) fun y hy =>
        satInc_of_lt hy ▸ silentStep_manMark hc hi hman hws (hle hy),
        .mark (.longFromMid (long_twoHalfBits hd hman)) nofun⟩
  | @space ws us us' mid₀ mid₁ _ p q hp hq hlen =>
    obtain rfl := hlen rfl
    cases hq with
    | shortFromMid =>
      rw [List.append_nil] at hws ⊢
      have hws₀ : ws.length ≤ (c.desc i).nbits := by
        rw [List.length_append] at hws
        omega
      exact ⟨_, .countOn (f := spaceRegs (c.desc i) i ws mid₀ p) (by omega) fun y hy =>
        satInc_of_lt hy ▸ silentStep_manSpace hc hi hman hws₀ (hle hy),
        .space hp (.longFromMid (long_twoHalfBits hd hman)) nofun⟩

/-- A bit as sent takes the decoder from one bit boundary to the next (R160). -/
theorem silentRun_manBit {x : Bool} {r : DecRegs} (w : Bool)
    (h : HalfBits (c.desc i) i x ws false r) (hroom : ws.length + 1 ≤ (c.desc i).nbits) :
    ∃ r', SilentRun c (bitSamples (c.desc i) [w]) r r' ∧
      HalfBits (c.desc i) i (!w) (ws ++ [w]) false r' := by
  have hws : ws.length ≤ (c.desc i).nbits := by omega
  have hfirst : ∃ r₁, SilentRun c (List.replicate (c.desc i).p1Pulse.exp.toNat w) r r₁ ∧
      HalfBits (c.desc i) i w (ws ++ [w]) true r₁ := by
    by_cases hw : w = x
    · subst hw
      exact silentRun_sameHalfBit hc hi hman h hws
    · obtain rfl : w = !x := Bool.eq_not.mpr hw
      exact silentRun_otherHalfBit hc hi hman h hws
  obtain ⟨r₁, hrun₁, h₁⟩ := hfirst
  obtain ⟨r₂, hrun₂, h₂⟩ := silentRun_otherHalfBit hc hi hman h₁
    (by rwa [List.length_append, List.length_singleton])
  rw [bitSamples_manchester hman]
  exact ⟨r₂, hrun₁.append hrun₂, by simpa using h₂⟩

/-- Bits as sent; on the boundary after them the level is the second half of the last one. -/
theorem silentRun_manBits (us : List Bool) {x : Bool} {r : DecRegs}
    (h : HalfBits (c.desc i) i x ws false r) (hlast : ws.getLast? = some (!x))
    (hroom : ws.length + us.length ≤ (c.desc i).nbits) :
    ∃ x' r', SilentRun c (bitSamples (c.desc i) us) r r' ∧
      HalfBits (c.desc i) i x' (ws ++ us) false r' ∧ (ws ++ us).getLast? = some (!x') := by
  induction us generalizing ws x r with
  | nil => exact ⟨x, r, .nil r, by simpa using h, by simpa using hlast⟩
  | cons u us ih =>
    rw [List.length_cons] at hroom
    obtain ⟨r₁, hrun₁, h₁⟩ := silentRun_manBit hc hi hman u h (by omega)
    obtain ⟨x', r', hrun, h', hlast'⟩ := ih h₁ (by simp)
      (by rw [List.length_append, List.length_singleton]; omega)
    rw [List.append_assoc, List.singleton_append] at h' hlast'
    rw [bitSamples_cons]
    exact ⟨x', r', hrun₁.append hrun, h', hlast'⟩

end

end Sys2Proof.Machine

namespace Sys2Proof.Machine

/-! ### A whole Manchester frame -/

section
variable {c : Config} {i : Nat} (hc : c.WF) (hi : i < c.nproto)
  (hman : (c.desc i).isManchester = true)
include hc hi hman

/-- Bit 0 as sent, a 1: the normal header ends on its first boundary (R212). -/
theorem silentRun_firstBit_true
    (hbelow : ∀ j < i, NoHeader (c.desc j) (c.desc i).hdrPulse.exp (c.desc i).hdrPause.exp) :
    ∃ r, SilentRun c (bitSamples (c.desc i) [true])
        (headerSpaceRegs (c.desc i).hdrPulse.exp (c.desc i).hdrPause.exp) r ∧
      HalfBits (c.desc i) i false [true] false r := by
  obtain ⟨-, -, ⟨-, -, hpos, -⟩, -, ⟨-, -, hrange, -⟩, -⟩ := (Desc.wf_iff _).mp (hc.desc hi)
  have mark := SilentRun.count (f := markRegs (c.desc i) i [] false) (exp_pos_of_inRange hrange)
    (silentStep_normalHeader hc hi ⟨Timing.has_exp _, Timing.has_exp _⟩ hbelow) fun y hy =>
      satInc_of_lt hy ▸ silentStep_manMark hc hi hman (Nat.zero_le _)
        (Timing.toNat_satInc_le_max hy)
  have half : HalfBits (c.desc i) i true [true] true _ :=
    .mark (ws := []) (segment_halfBit (c.desc i) true false) nofun
  obtain ⟨r, space, boundary⟩ := silentRun_otherHalfBit hc hi hman half hpos
  rw [bitSamples_manchester hman]
  exact ⟨r, mark.append space, boundary⟩

/-- Bit 0 as sent, a 0: its first half lengthens the header space (R121, R212). -/
theorem silentRun_firstBit_false
    (hfits : (c.desc i).hdrPause.exp.toNat + (c.desc i).p1Pulse.exp.toNat ≤ 0xFFFF)
    (hbelow : ∀ j < i, NoHeader (c.desc j) (c.desc i).hdrPulse.exp
      ((c.desc i).hdrPause.exp + (c.desc i).p1Pulse.exp)) :
    ∃ r, SilentRun c (bitSamples (c.desc i) [false])
        (headerSpaceRegs (c.desc i).hdrPulse.exp (c.desc i).hdrPause.exp) r ∧
      HalfBits (c.desc i) i true [false] false r := by
  obtain ⟨-, -, ⟨-, -, hpos, -⟩, -, ⟨-, -, hrange, -⟩, -⟩ := (Desc.wf_iff _).mp (hc.desc hi)
  have hmin := hrange.1
  have hsum : ((c.desc i).hdrPause.exp + (c.desc i).p1Pulse.exp).toNat =
      (c.desc i).hdrPause.exp.toNat + (c.desc i).p1Pulse.exp.toNat := by
    rw [BitVec.toNat_add]
    omega
  have hp := Timing.has_exp (c.desc i).hdrPulse
  have hshifted : Shifted (c.desc i) (c.desc i).hdrPulse.exp
      ((c.desc i).hdrPause.exp + (c.desc i).p1Pulse.exp) := by
    have hq := Timing.has_exp (c.desc i).hdrPause
    have hh := Timing.has_exp (c.desc i).p1Pulse
    refine ⟨hman, hp, ?_, ?_⟩ <;> rw [hsum, Nat.cast_add]
    · exact add_le_add hq.1 hh.1
    · exact add_le_add hq.2 hh.2
  have space := SilentRun.countOn (c := c) (m := false)
    (f := headerSpaceRegs (c.desc i).hdrPulse.exp) (u := (c.desc i).hdrPause.exp)
    (v := (c.desc i).hdrPause.exp + (c.desc i).p1Pulse.exp) (by omega) fun y hy =>
      satInc_of_lt hy ▸ silentStep_headerSpace hi hp (toNat_satInc_le_of_lt hy (by
        rw [if_pos hman]
        exact hshifted.2.2.2))
  rw [hsum, Nat.add_sub_cancel_left] at space
  have mark := SilentRun.count (f := markRegs (c.desc i) i [false] true)
    (exp_pos_of_inRange hrange) (silentStep_shiftedHeader hc hi hshifted hbelow) fun y hy =>
      satInc_of_lt hy ▸ silentStep_manMark (ws := [false]) hc hi hman hpos (by
        have := Timing.toNat_satInc_le_max hy
        unfold Timing.min at hmin
        unfold Timing.max at *
        rw [if_pos rfl]
        omega)
  rw [bitSamples_manchester hman]
  exact ⟨_, space.append mark,
    .mark (ws := [false]) (segment_halfBit (c.desc i) true true) fun _ => rfl⟩

/-- The longest space within a frame, two half bits with their tolerance, is counted below the counter's
end (R97 W7, R164). -/
theorem longestSpace_lt :
    2 * ((c.desc i).p1Pulse.exp.toNat + (c.desc i).p1Pulse.tol.toNat) < 0xFFFF := by
  have hgap := twoHalfBits_max_lt_gap (hc.desc hi) hman
  have hmax := (c.desc i).gap.isLt
  unfold Timing.max at hgap
  omega

theorem toNat_longestSpace :
    (BitVec.ofNat 16 (2 * ((c.desc i).p1Pulse.exp.toNat + (c.desc i).p1Pulse.tol.toNat))).toNat =
      2 * ((c.desc i).p1Pulse.exp.toNat + (c.desc i).p1Pulse.tol.toNat) := by
  rw [BitVec.toNat_ofNat]
  exact Nat.mod_eq_of_lt ((longestSpace_lt hc hi hman).trans (by decide))

/-- The space sample that exceeds two half bits is the virtual tick: it resolves the last mark and
completes the frame (R164, R166). -/
theorem emits_virtualTick {ws us : List Bool} {mid mid' : Bool} {p : Half}
    (hp : Segment (c.desc i) true p mid us mid') (hfull : (ws ++ us).length = (c.desc i).nbits) :
    Emits c (c.desc i) (shiftIn (c.desc i) 0#32 (ws ++ us)) (spaceRegs (c.desc i) i ws mid p
      (BitVec.ofNat 16 (2 * ((c.desc i).p1Pulse.exp.toNat + (c.desc i).p1Pulse.tol.toNat)))) := by
  rintro s rfl hl hr
  have hd := hc.desc hi
  rw [List.length_append] at hfull
  have hws : ws.length ≤ (s.cfg.desc i).nbits := by omega
  have hin : InFrame (s.cfg.desc i) i ws s.dec := hr ▸ inFrame_spaceRegs _ i ws mid p _
  have hpos := hin.bitpos_toInt hd.nbits_le hws
  have hcand := hin.cand hc hi
  have hover : ¬ ((satInc s.dec.pauseTime).toNat : Int) ≤ 2 * (s.cfg.desc i).p1Pulse.max := by
    have hq : s.dec.pauseTime.toNat =
        2 * ((s.cfg.desc i).p1Pulse.exp.toNat + (s.cfg.desc i).p1Pulse.tol.toNat) := by
      rw [hr]
      exact toNat_longestSpace hc hi hman
    exact not_toNat_satInc_le_of_eq hq (longestSpace_lt hc hi hman) le_rfl
  obtain ⟨hrpt, hnonneg, hle, hmax⟩ := hin.dataFrame hd.nbits_le hws
  have hsegment : Segment (s.cfg.desc i) true s.dec.pulseTime s.dec.manMid us mid' := by
    rw [hr]
    exact hp
  have hdone := finish_manPairVirtual_of_segment (s := s)
    (r := { s.dec with pauseTime := satInc s.dec.pauseTime }) (hcand ▸ hd) (hcand ▸ hman)
    (hcand ▸ ⟨hrpt, hnonneg, hle, hmax⟩) rfl (hcand ▸ hsegment)
  rw [hcand] at hdone
  rw [exec_tick_of_manSpaceRegs hc hi hman hws rfl hl hr, if_neg Bool.false_ne_true, manSpaceOn_eq,
    countRep_dec, if_neg hover]
  refine (congrArg _ hdone).trans ?_
  rw [if_pos (by simp only [hpos]; omega), shiftIn_append, ← hin.data]

/-- From the last bit boundary the gap is silent up to its longest space, of which the last bit's second
half, when it is a space, is a part (R164). -/
theorem silentRun_gap {ws : List Bool} {x : Bool} {r : DecRegs}
    (h : HalfBits (c.desc i) i x ws false r) (hfull : ws.length = (c.desc i).nbits) :
    ∃ r', SilentRun c (List.replicate
        (2 * ((c.desc i).p1Pulse.exp.toNat + (c.desc i).p1Pulse.tol.toNat) -
          (if x then 0 else (c.desc i).p1Pulse.exp.toNat)) false) r r' ∧
      Emits c (c.desc i) (shiftIn (c.desc i) 0#32 ws) r' := by
  obtain ⟨-, -, -, -, ⟨-, -, hrange, -⟩, -⟩ := (Desc.wf_iff _).mp (hc.desc hi)
  have hhalf := exp_pos_of_inRange hrange
  have hlong := toNat_longestSpace hc hi hman
  have hle {y : Half} (hy : y.toNat < (BitVec.ofNat 16
      (2 * ((c.desc i).p1Pulse.exp.toNat + (c.desc i).p1Pulse.tol.toNat))).toNat) :
      ((satInc y).toNat : Int) ≤ 2 * (c.desc i).p1Pulse.max :=
    toNat_satInc_le_of_lt hy (by rw [hlong]; exact le_rfl)
  rw [← hlong]
  cases h with
  | @mark ws us mid₀ _ p hp hlen =>
    have hws : ws.length ≤ (c.desc i).nbits := by
      rw [List.length_append] at hfull
      omega
    refine ⟨_, .count (f := spaceRegs (c.desc i) i ws mid₀ p) (by rw [hlong]; omega)
      (silentStep_manMarkEnd hc hi hman hws hp) fun y hy => satInc_of_lt hy ▸
        silentStep_manSpace hc hi hman hws (hle hy), emits_virtualTick hc hi hman hp hfull⟩
  | @space ws us us' mid₀ mid₁ _ p q hp hq hlen =>
    obtain rfl := hlen rfl
    cases hq with
    | shortFromMid =>
      rw [List.append_nil] at hfull ⊢
      have hws : ws.length ≤ (c.desc i).nbits := by
        rw [List.length_append] at hfull
        omega
      exact ⟨_, .countOn (f := spaceRegs (c.desc i) i ws mid₀ p) (by rw [hlong]; omega) fun y hy =>
        satInc_of_lt hy ▸ silentStep_manSpace hc hi hman hws (hle hy),
        emits_virtualTick hc hi hman hp hfull⟩

end

end Sys2Proof.Machine

namespace Sys2Proof.Machine

/-- The wire bits of a frame are its first one and then some bits. -/
theorem wireBits_eq_cons {d : Desc} (hpos : 1 ≤ d.nbits) (frame : BitVec 32) :
    ∃ us, wireBits d frame = d.wire frame 0 :: us ∧ us.length + 1 = d.nbits := by
  have hlen : d.nbits = d.nbits - 1 + 1 := by omega
  refine ⟨((List.range (d.nbits - 1)).map Nat.succ).map (d.wire frame), ?_, by simp [← hlen]⟩
  rw [wireBits]
  conv_lhs => rw [hlen, List.range_succ_eq_map, List.map_cons]

section
variable {c : Config} {i : Nat} (hc : c.WF) (hi : i < c.nproto) (frame : BitVec 32)
  (hfits : headerSpace (c.desc i) frame ≤ 0xFFFF)
  (hbelow : ∀ j < i, NoHeader (c.desc j) (c.desc i).hdrPulse.exp
    (BitVec.ofNat 16 (headerSpace (c.desc i) frame)))
include hc hi hfits hbelow

/-- Bit 0 of a Manchester frame as sent, with the header space that its value gives (R212). -/
theorem silentRun_firstBit (hman : (c.desc i).isManchester = true) :
    ∃ r, SilentRun c (bitSamples (c.desc i) [(c.desc i).wire frame 0])
        (headerSpaceRegs (c.desc i).hdrPulse.exp (c.desc i).hdrPause.exp) r ∧
      HalfBits (c.desc i) i (!(c.desc i).wire frame 0) [(c.desc i).wire frame 0] false r := by
  cases hw : (c.desc i).wire frame 0 with
  | true =>
    have hspace : headerSpace (c.desc i) frame = (c.desc i).hdrPause.exp.toNat := by
      simp [headerSpace, hw]
    rw [hspace, BitVec.ofNat_toNat, BitVec.setWidth_eq] at hbelow
    exact silentRun_firstBit_true hc hi hman hbelow
  | false =>
    have hspace : headerSpace (c.desc i) frame =
        (c.desc i).hdrPause.exp.toNat + (c.desc i).p1Pulse.exp.toNat := by
      simp [headerSpace, hman, hw]
    rw [hspace] at hfits hbelow
    rw [BitVec.ofNat_add, BitVec.ofNat_toNat, BitVec.ofNat_toNat, BitVec.setWidth_eq,
      BitVec.setWidth_eq] at hbelow
    exact silentRun_firstBit_false hc hi hman hfits hbelow

theorem emitsInGap_of_manchester (hman : (c.desc i).isManchester = true) :
    EmitsInGap c (c.desc i) frame
      (2 * ((c.desc i).p1Pulse.exp.toNat + (c.desc i).p1Pulse.tol.toNat) -
        if (c.desc i).wire frame ((c.desc i).nbits - 1) then (c.desc i).p1Pulse.exp.toNat else 0) := by
  have hd := hc.desc hi
  have hgap := twoHalfBits_max_lt_gap hd hman
  obtain ⟨-, -, ⟨-, -, hpos, -⟩, -⟩ := (Desc.wf_iff _).mp hd
  have hstop : (c.desc i).hasStop = false := by
    obtain ⟨-, -, -, -, -, -, w7, -⟩ := (Desc.wf_iff _).mp hd
    exact (w7 hman).1
  obtain ⟨us, hsnoc, -⟩ := wireBits_eq_snoc hpos frame
  obtain ⟨vs, hcons, hvs⟩ := wireBits_eq_cons hpos frame
  obtain ⟨r₁, hrun₁, h₁⟩ := silentRun_firstBit hc hi frame hfits hbelow hman
  obtain ⟨x, r₂, hrun₂, h₂, hlast⟩ := silentRun_manBits hc hi hman vs h₁ (by simp)
    (by rw [List.length_singleton]; omega)
  rw [List.singleton_append, ← hcons] at h₂ hlast
  obtain ⟨r₃, hrun₃, hemits⟩ := silentRun_gap hc hi hman h₂ (length_wireBits _ _)
  have hx : (c.desc i).wire frame ((c.desc i).nbits - 1) = !x := by
    rw [hsnoc, List.getLast?_append, List.getLast?_singleton] at hlast
    simpa using hlast
  have hbefore : samplesBeforeGap (c.desc i) frame =
      headerSamples (c.desc i) ++ bitSamples (c.desc i) (wireBits (c.desc i) frame) := by
    rw [samplesBeforeGap, stopSamples, if_neg (Bool.eq_false_iff.mp hstop), List.append_nil]
  have hhalf : (if (c.desc i).wire frame ((c.desc i).nbits - 1) then
      (c.desc i).p1Pulse.exp.toNat else 0) = if x then 0 else (c.desc i).p1Pulse.exp.toNat := by
    rw [hx]
    cases x <;> rfl
  refine ⟨?_, ?_, r₃, ?_, hemits⟩
  · unfold Timing.max at hgap
    omega
  · have hlong : (c.desc i).p1Pulse.exp.toNat ≤ (samplesBeforeGap (c.desc i) frame).length := by
      rw [hbefore, hsnoc, bitSamples_append, bitSamples_manchester hman]
      simp only [List.length_append, List.length_replicate]
      omega
    rw [samplesBeforeEmit_eq, if_pos hman]
    split <;> omega
  · rw [hhalf, hbefore, hcons, bitSamples_cons]
    exact ((silentRun_header hc hi).append (hrun₁.append hrun₂)).append hrun₃

/-- A frame as sent, of any kind of record, emits its result in its gap (R228). -/
theorem exists_emitsInGap : ∃ j, EmitsInGap c (c.desc i) frame j := by
  cases hman : (c.desc i).isManchester with
  | true => exact ⟨_, emitsInGap_of_manchester hc hi frame hfits hbelow hman⟩
  | false =>
    have hspace : headerSpace (c.desc i) frame = (c.desc i).hdrPause.exp.toNat := by
      simp [headerSpace, hman]
    rw [hspace, BitVec.ofNat_toNat, BitVec.setWidth_eq] at hbelow
    cases hstop : (c.desc i).hasStop with
    | true => exact ⟨_, emitsInGap_of_hasStop hc hi hstop frame hbelow⟩
    | false => exact ⟨_, emitsInGap_of_not_hasStop hc hi hman hstop frame hbelow⟩

end

/-- The response that emits a full frame, once its fields and the timer's count are known (R92, R185). -/
theorem resp_afterFullFrame {s : State} {d : Desc} {x : BitVec 32} {a : BitVec 16} {c : BitVec 32}
    {n : Nat} (ha : (d.extract x).1 = a) (hc : (d.extract x).2 = c)
    (hn : (satInc s.rep.timer).toNat = n) :
    (s.afterFullFrame d x).resp = some (0x0#4 ++ d.id ++ a ++ c ++
      (0#1 ++ BitVec.ofBool s.cbEn ++ 0#1 ++ BitVec.ofBool (decide (d.hasRpt = false ∧
        s.rep.lastValid = true ∧ s.rep.lastProto = d.id ∧ s.rep.lastAddr = a ∧ s.rep.lastCmd = c ∧
        n ≤ d.repWindow.toNat)))) := by
  subst ha hc hn
  rfl

/-- Settles O52: the frame is silent up to the sample of its gap that `EmitsInGap` names, which emits
what `extract` reads from the stored bits, and the rest of the gap finds the decoder in hold. -/
theorem roundTripLaw : Obligations.RoundTripLaw := by
  intro s i a c hc hl hr hi d frame k rep ha hcmd hfits hbelow
  have hd : d.W3 := ((Desc.wf_iff _).mp (hc.desc hi)).2.2.1
  obtain ⟨j, hemission⟩ : ∃ j, EmitsInGap s.cfg d frame j :=
    exists_emitsInGap hc hi frame hfits hbelow
  obtain ⟨hgap, hk, r, hrun, hemits⟩ := hemission
  have hsplit : List.replicate d.gap.toNat false =
      List.replicate j false ++ false :: List.replicate (d.gap.toNat - j - 1) false := by
    rw [← List.replicate_succ, ← List.replicate_add]
    congr 1
    omega
  have hrest : segsLength (frameSegs d frame) - k - 1 = d.gap.toNat - j - 1 := by
    rw [segsLength_frameSegs, show k = _ from hk]
    omega
  have hlen : (samplesBeforeGap d frame ++ List.replicate j false).length = k := by
    rw [List.length_append, List.length_replicate, ← hk]
  obtain ⟨resp, hresponses⟩ := responses_of_silentRun hrun rfl hl hr
    (.tick (s.sample false) :: ticks (s.sample false) (d.gap.toNat - j - 1))
  rw [shiftIn_wireBits hd] at hemits
  have hemit : exec (.tick (s.sample false)) (s.heard k r resp) =
      .next ((s.heard k r resp).afterFullFrame d frame) := hemits _ rfl hl rfl
  have hhold := responses_ticks_of_ready (s.sample false) (d.gap.toNat - j - 1)
    (s := (s.heard k r resp).afterFullFrame d frame) hl.1 rfl
  obtain ⟨haddr, hcmd'⟩ := Desc.extract_assemble hd a c
  rw [Nat.mod_eq_of_lt ha] at haddr
  rw [Nat.mod_eq_of_lt hcmd] at hcmd'
  have htimer : (satInc (satInc^[k] s.rep.timer)).toNat =
      min (s.rep.timer.toNat + k + 1) 0xFFFF := by
    rw [← Function.iterate_succ_apply' satInc, toNat_iterate_satInc, Nat.add_assoc]
  have hresp := resp_afterFullFrame (s := s.heard k r resp) (d := d) (x := frame)
    (BitVec.eq_of_toNat_eq haddr) (BitVec.eq_of_toNat_eq hcmd') htimer
  rw [hlen, responses_cons hemit, hhold, hresp] at hresponses
  rw [segs_eq_map_envelope s, envelope_frameSegs, hsplit, ← List.append_assoc, List.map_append,
    List.map_cons, List.map_replicate, hrest, List.append_assoc]
  exact hresponses

end Sys2Proof.Machine

namespace Sys2Proof.Machine

/-! ## The arbiter's operations (R243 to R246) -/

theorem refuse_busy (s : State) :
    refuse .refusedBusy s = { s with resp := some 0x2000000000000000#64 } := by
  have hresp : response .refusedBusy 0#60 = 0x2000000000000000#64 := by decide
  rw [refuse, respond, hresp]

theorem refuse_proto (s : State) :
    refuse .refusedProto s = { s with resp := some 0x4000000000000000#64 } := by
  have hresp : response .refusedProto 0#60 = 0x4000000000000000#64 := by decide
  rw [refuse, respond, hresp]

/-- In mode TX the refusal is busy during a send, else mode (R201, R244). -/
theorem refuse_txRefusal (s : State) :
    refuse (txRefusal s) s = { s with
      resp := some (if s.enc.active then 0x2000000000000000#64 else 0x3000000000000000#64) } := by
  have hmode : response .refusedMode 0#60 = 0x3000000000000000#64 := by decide
  cases ha : s.enc.active with
  | true => simp only [txRefusal, ha, if_true, refuse_busy]
  | false => simp only [txRefusal, ha, Bool.false_eq_true, if_false, refuse, respond, hmode]

/-- A switch to receive answers OK and leaves `snap` (R243, R246, R247). -/
theorem respondOk_switchToRx (v : TimerConfig) (s : State) :
    respondOk (switchToRx v s) = { s with
      arb := { mode := .rx, timerCfg := v, snap := s.arb.snap }, resp := some 0#64 } := by
  have hresp : response .ok 0#60 = 0#64 := by decide
  rw [respondOk, respond, hresp, switchToRx]

theorem exec_cfgRx_of_active {s : State} (ha : s.enc.active = true) :
    exec .cfgRx s = .next { s with resp := some 0x2000000000000000#64 } := by
  rw [exec, execCfgRx, if_pos ha, refuse_busy]

theorem exec_cfgRx_of_not_active {s : State} (ha : s.enc.active = false) :
    exec .cfgRx s = .next { s with
      arb := { mode := .rx, timerCfg := Config.tcfgOf s.cfg.fRxCode, snap := s.arb.snap },
      resp := some 0#64 } := by
  rw [exec, execCfgRx, if_neg (by simp [ha]), ← respondOk_switchToRx]
  rfl

/-- Settles O17: a second `CFG_RX` writes the values that the first has left. -/
theorem cfgRxConfiguresReceive : Obligations.CfgRxConfiguresReceive := by
  refine ⟨fun s ha => exec_cfgRx_of_not_active ha, fun s ha => exec_cfgRx_of_active ha,
    fun s t ha h => ?_⟩
  rw [exec_cfgRx_of_not_active ha] at h
  cases h
  exact exec_cfgRx_of_not_active ha

theorem exec_restore_of_active {s : State} (ha : s.enc.active = true) (v : BitVec 32) :
    exec (.restore v) s = .next { s with resp := some 0x2000000000000000#64 } := by
  rw [exec, execRestore, if_pos ha, refuse_busy]

theorem exec_restore_of_not_active {s : State} (ha : s.enc.active = false) (v : BitVec 32) :
    exec (.restore v) s = .next { s with
      arb := { mode := .rx, timerCfg := v, snap := s.arb.snap }, resp := some 0#64 } := by
  rw [exec, execRestore, if_neg (by simp [ha]), respondOk_switchToRx]

/-- Settles O19: `enc_active` decides between the switch to receive and the refusal. -/
theorem restoreWritesTimerConfig : Obligations.RestoreWritesTimerConfig :=
  ⟨fun _ v ha => exec_restore_of_not_active ha v, fun _ v ha => exec_restore_of_active ha v⟩

/-! ### CFG_TX and its answer (R244, R245) -/

/-- The answer of an accepted `CFG_TX`: OK with the snapshot in `r[31:0]` (R244). -/
theorem response_snapshot (v : TimerConfig) :
    response .ok (v.zeroExtend 60) = 0x0#4 ++ 0#28 ++ v := by
  have hwide : v.zeroExtend 60 = 0#28 ++ v := BitVec.setWidth_eq_append (by decide)
  rw [response, Status.code, hwide, BitVec.append_assoc, BitVec.cast_eq]

/-- The snapshot is read off the answer (R244). -/
theorem snapshot_of_response {v w : TimerConfig}
    (h : (0x0#4 ++ 0#28 ++ v : Word) = 0x0#4 ++ 0#28 ++ w) : v = w :=
  (BitVec.append_right_inj _).mp h

theorem exec_cfgTx_of_findProto {s : State} {p : BitVec 8} {i : Nat} (hm : s.arb.mode = .rx)
    (hfind : s.cfg.findProto p = some i) :
    exec (.cfgTx p) s = .next { s with
      dec := .cleared,
      arb := { mode := .tx, timerCfg := Config.tcfgOf (s.cfg.desc i).txRate, snap := s.arb.timerCfg },
      resp := some (0x0#4 ++ 0#28 ++ s.arb.timerCfg) } := by
  simp only [exec, execCfgTx, hm, reduceCtorEq, if_false, hfind]
  rw [switchToTx_arb, response_snapshot]
  rfl

theorem exec_cfgTx_of_findProto_none {s : State} {p : BitVec 8} (hm : s.arb.mode = .rx)
    (hfind : s.cfg.findProto p = none) :
    exec (.cfgTx p) s = .next { s with resp := some 0x4000000000000000#64 } := by
  simp only [exec, execCfgTx, hm, reduceCtorEq, if_false, hfind, refuse_proto]

theorem exec_cfgTx_of_tx {s : State} (hm : s.arb.mode = .tx) (p : BitVec 8) :
    exec (.cfgTx p) s = .next { s with
      resp := some (if s.enc.active then 0x2000000000000000#64 else 0x3000000000000000#64) } := by
  rw [exec, execCfgTx, if_pos hm, refuse_txRefusal]

/-- Settles O18: in mode RX the table decides, and ids are distinct, so the record is the one named. -/
theorem cfgTxSwitchesToSend : Obligations.CfgTxSwitchesToSend :=
  ⟨fun _ _ _ hc hm hi hp => exec_cfgTx_of_findProto hm (hp ▸ hc.findProto_id hi),
    fun _ _ hm hp => exec_cfgTx_of_findProto_none hm
      (Config.findProto_none.mpr fun d hd hid => hp ⟨d, hd, hid⟩), fun _ p hm => exec_cfgTx_of_tx hm p⟩

/-! ### One tick, one machine (R240) -/

/-- Settles O21: an encoder tick does not take the sample, and each machine's tick has its frame. -/
theorem tickGoesToOneMachine : Obligations.TickGoesToOneMachine := by
  refine ⟨fun s t b hm h => ?_, fun s t b hm h => ?_⟩
  · obtain ⟨hfault, -⟩ := execTick_next h
    rw [tickFault, hm] at hfault
    have htick := exec_tick_of_tx hm hfault
    rw [htick b] at h
    cases h
    obtain ⟨-, hdec, hrep, hres, hready, hcb, -⟩ := encTick_frame s
    exact ⟨htick (!b), hdec, hrep, hres, hready, hcb⟩
  · rcases exec_tick_cases h with ⟨htx, -⟩ | ⟨-, rfl⟩
    · exact absurd (hm.symm.trans htx) (by decide)
    · obtain ⟨-, henc, harb, hcb, -⟩ := decTick_frame b s
      exact ⟨henc, harb, hcb⟩

/-! ### A tick as the arbiter sees it (R217, R252) -/

/-- With no send in progress a tick of either machine leaves the arbiter as it is (R206, R240). -/
theorem exec_tick_of_not_active {s t : State} {b : Bool} (ha : s.enc.active = false)
    (h : exec (.tick b) s = .next t) : t.enc.active = false ∧ t.arb = s.arb := by
  rcases exec_tick_cases h with ⟨-, rfl⟩ | ⟨-, rfl⟩
  · rcases encTick_cases s with ⟨-, heq⟩ | ⟨r, hact, -⟩ | ⟨r, hact, -⟩
    · rw [heq]
      exact ⟨ha, rfl⟩
    · exact absurd (ha.symm.trans hact) (by decide)
    · exact absurd (ha.symm.trans hact) (by decide)
  · obtain ⟨-, henc, harb, -⟩ := decTick_frame b s
    exact ⟨(congrArg EncRegs.active henc).trans ha, harb⟩

/-- A tick of a send in progress goes on with it, or finishes it: `timer_cfg` is restored, the block
goes to RX, and the answer is `send_done` (R206, R217). -/
theorem exec_tick_of_sending {s t : State} {b : Bool} (hg : s.Good) (ha : s.enc.active = true)
    (h : exec (.tick b) s = .next t) :
    (t.enc.active = true ∧ t.arb = s.arb ∧ t.resp = some 0x1000000000000000#64) ∨
    (t.enc.active = false ∧ t.arb = { s.arb with timerCfg := s.arb.snap, mode := .rx } ∧
      t.resp = some 0x1000000000000008#64) := by
  obtain ⟨-, hsend⟩ := hg.encInv.sending ha
  cases (exec_tick_of_active hg ha b).symm.trans h
  rcases encTick_cases s with ⟨hn, -⟩ | ⟨r, -, rfl, hgo, heq⟩ | ⟨r, -, rfl, hend, heq⟩
  · exact absurd (hn.symm.trans ha) (by decide)
  · rcases encCount_cases hg.1 hsend with ⟨-, hs⟩ | ⟨hend, -⟩
    · rw [heq]
      exact .inl ⟨(hs.drivePin _ _).active, rfl, congrArg some tickResponse_none⟩
    · exact absurd (hgo.symm.trans hend) (by decide)
  · rcases encCount_cases hg.1 hsend with ⟨hgo, -⟩ | ⟨-, hn, -⟩
    · exact absurd (hgo.symm.trans hend) (by decide)
    · rw [heq]
      refine .inr ⟨?_, rfl, congrArg some tickResponse_sendDone⟩
      rw [finish_enc, switchToRx_enc, drivePin_of_not_active hn]
      exact hn

/-! ### The snapshot and its return (R249) -/

/-- No refusal reads as the answer of an accepted `CFG_TX` (R91, R244). -/
theorem refusal_ne_snapshot {st : Status} (hst : st.Refuses) (v : TimerConfig) :
    response st 0#60 ≠ 0x0#4 ++ 0#28 ++ v := fun heq => by
  have hcode := congrArg statusOf heq
  rw [← response_snapshot, statusOf_response, statusOf_response] at hcode
  rcases hst with rfl | rfl | rfl <;> exact absurd hcode (by decide)

/-- An answer OK to `CFG_TX` is the snapshot: the block was in RX and is in TX, with `snap` the
`timer_cfg` it has given up (R244, R245). -/
theorem exec_cfgTx_answered_ok {s t : State} {p : BitVec 8} {v : TimerConfig}
    (h : exec (.cfgTx p) s = .next t) (hresp : t.resp = some (0x0#4 ++ 0#28 ++ v)) :
    s.arb.mode = .rx ∧ s.arb.timerCfg = v ∧ t.dec = .cleared ∧ t.enc = s.enc ∧
      t.arb.mode = .tx ∧ t.arb.snap = v := by
  cases hm : s.arb.mode with
  | tx =>
    rw [exec_cfgTx_of_tx hm, ← refuse_txRefusal] at h
    cases h
    exact absurd (Option.some.inj hresp) (refusal_ne_snapshot (txRefusal_refuses s) v)
  | rx =>
    cases hfind : s.cfg.findProto p with
    | none =>
      rw [exec_cfgTx_of_findProto_none hm hfind, ← refuse_proto] at h
      cases h
      exact absurd (Option.some.inj hresp) (refusal_ne_snapshot (.inr (.inr rfl)) v)
    | some i =>
      rw [exec_cfgTx_of_findProto hm hfind] at h
      cases h
      have hv := snapshot_of_response (Option.some.inj hresp)
      exact ⟨rfl, hv, rfl, rfl, rfl, hv⟩

/-- What `CFG_TX` leaves and quiet operations keep: no send in progress, the arbiter registers `a`, the
frame registers cleared (R249). -/
abbrev State.Waits (a : ArbRegs) (s : State) : Prop :=
  s.enc.active = false ∧ s.arb = a ∧ s.dec = .cleared

/-- In mode TX without a send a quiet operation touches neither the arbiter nor the frame registers
(R249). -/
theorem exec_quiet_waits {i : Instr} {s t : State} {a : ArbRegs} (hq : QuietOp i)
    (hm : a.mode = .tx) (hs : s.Waits a) (h : exec i s = .next t) : t.Waits a := by
  obtain ⟨hact, harb, hdec⟩ := hs
  cases i with
  | tick b =>
    obtain ⟨hact', harb'⟩ := exec_tick_of_not_active hact h
    obtain ⟨-, hdec', -⟩ := tickGoesToOneMachine.1 s t b (harb ▸ hm) h
    exact ⟨hact', harb'.trans harb, hdec'.trans hdec⟩
  | nop | getResult | rdStatus | setCb _ =>
    obtain ⟨rdy, e, r, -, rfl⟩ := exec_host_cases (by constructor) h
    exact ⟨hact, harb, hdec⟩
  | send _ _ _ _ | cfgRx | cfgTx _ | restore _ => exact hq.elim

/-- A send is to give `v` back to `timer_cfg`, or has done so and left mode TX (R249). -/
def State.GivesBack (v : TimerConfig) (s : State) : Prop :=
  (s.enc.active = true ∧ s.arb.snap = v) ∨
  (s.enc.active = false ∧ s.arb.mode = .rx ∧ s.arb.timerCfg = v)

theorem exec_tick_givesBack {s t : State} {b : Bool} {v : TimerConfig} (hg : s.Good)
    (hs : s.GivesBack v) (h : exec (.tick b) s = .next t) : t.GivesBack v := by
  rcases hs with ⟨ha, hsnap⟩ | ⟨ha, hm, htimer⟩
  · rcases exec_tick_of_sending hg ha h with ⟨hact, harb, -⟩ | ⟨hact, harb, -⟩
    · exact .inl ⟨hact, by rw [harb, hsnap]⟩
    · exact .inr ⟨hact, by rw [harb], by rw [harb, ← hsnap]⟩
  · obtain ⟨hact, harb⟩ := exec_tick_of_not_active ha h
    exact .inr ⟨hact, by rw [harb, hm], by rw [harb, htimer]⟩

theorem execAll_ticks_givesBack {bs : List Bool} {s t : State} {v : TimerConfig} (hg : s.Good)
    (hs : s.GivesBack v) (hrun : execAll (bs.map .tick) s = .next t) : t.GivesBack v := by
  induction bs generalizing s with
  | nil => cases hrun; exact hs
  | cons b bs ih =>
    obtain ⟨u, h⟩ := exec_of_good hg (.tick b)
    rw [List.map_cons, execAll_cons h] at hrun
    exact ih (exec_keeps_good hg h) (exec_tick_givesBack hg hs h) hrun

/-- An answer OK to `SEND` starts a send that is to give `timer_cfg` back (R200, R245). -/
theorem exec_send_answered_ok {s t : State} {p : BitVec 8} {a : BitVec 16} {c : BitVec 32}
    {n : BitVec 4} (h : exec (.send p a c n) s = .next t) (hresp : t.resp = some 0#64) :
    s.arb.mode = .rx ∧ t.GivesBack s.arb.timerCfg := by
  obtain ⟨-, hunknown, htx⟩ := sendAcceptsOrRefuses
  rcases exec_send_cases h with ⟨hm, -⟩ | ⟨hm, hfind, -⟩ | ⟨i, hm, -, rfl⟩
  · rw [htx s p a c n hm] at h
    cases h
    have hword := Option.some.inj hresp
    split at hword <;> exact absurd hword (by decide)
  · rw [hunknown s p a c n hm (not_knows_of_findProto hfind)] at h
    cases h
    exact absurd (Option.some.inj hresp) (by decide)
  · exact ⟨hm, .inl ⟨rfl, rfl⟩⟩

/-- Settles O20: quiet operations leave the arbiter waiting for `RESTORE`, and each tick of a send keeps
the promise to give `timer_cfg` back. -/
theorem snapshotRestoresConfiguration : Obligations.SnapshotRestoresConfiguration := by
  refine ⟨fun s t p v ops hg h hresp hops => ?_, fun s t u p a c n bs hg h hresp hrun hend => ?_⟩
  · obtain ⟨hrx, hv, hdec, henc, hm, hsnap⟩ := exec_cfgTx_answered_ok h hresp
    have hidle : s.enc.active = false := (hrx ▸ hg.encInv).not_active_of_rx
    have hkeep : ∀ i ∈ ops, ∀ x y : State, x.Waits t.arb → exec i x = .next y → y.Waits t.arb :=
      fun i hi _ _ => exec_quiet_waits (hops i hi) hm
    obtain ⟨u, hrun, -, ha, harb, hcleared⟩ :=
      execAll_keeps hkeep (exec_keeps_good hg h) ⟨henc ▸ hidle, rfl, hdec⟩
    refine ⟨u, hrun, hcleared, ?_⟩
    rw [exec_restore_of_not_active ha, harb, hsnap, hrx, hv]
  · obtain ⟨hrx, hs⟩ := exec_send_answered_ok h hresp
    rcases execAll_ticks_givesBack (exec_keeps_good hg h) hs hrun with ⟨ha, -⟩ | ⟨-, hm, htimer⟩
    · exact absurd (ha.symm.trans hend) (by decide)
    · exact ⟨htimer, hm.trans hrx.symm⟩

/-! ### The three states of the arbiter (R252) -/

/-- The operations that ask for a switch of the arbiter (R240, R252). -/
abbrev SwitchOp (i : Instr) : Prop :=
  (∃ p a c n, i = .send p a c n) ∨ (∃ p, i = .cfgTx p) ∨ i = .cfgRx ∨ ∃ v, i = .restore v

theorem hostOp_or_tick_or_switchOp (i : Instr) :
    HostOp i ∨ (∃ b, i = .tick b) ∨ SwitchOp i := by
  cases i with
  | nop | getResult | rdStatus | setCb _ => exact .inl (by constructor)
  | tick b => exact .inr (.inl ⟨b, rfl⟩)
  | send p a c n => exact .inr (.inr (.inl ⟨p, a, c, n, rfl⟩))
  | cfgTx p => exact .inr (.inr (.inr (.inl ⟨p, rfl⟩)))
  | cfgRx => exact .inr (.inr (.inr (.inr (.inl rfl))))
  | restore v => exact .inr (.inr (.inr (.inr (.inr ⟨v, rfl⟩))))

theorem arbState_eq_iff (s : State) (m : Mode) (a : Bool) :
    s.arbState = (m, a) ↔ s.arb.mode = m ∧ s.enc.active = a := Prod.mk_inj

/-- Mode RX with a send in progress does not occur (I1). -/
theorem arbState_ne_rx_active {s : State} (hg : s.Good) : s.arbState ≠ (.rx, true) := by
  rw [ne_eq, arbState_eq_iff]
  rintro ⟨hm, ha⟩
  exact absurd (hm.symm.trans (hg.encInv.sending ha).1) (by decide)

theorem arbState_of_host {i : Instr} {s t : State} (hi : HostOp i) (h : exec i s = .next t) :
    t.arbState = s.arbState := by
  obtain ⟨rdy, e, r, -, rfl⟩ := exec_host_cases hi h
  rfl

theorem arbState_of_tick {b : Bool} {s t : State} (ha : s.enc.active = false)
    (h : exec (.tick b) s = .next t) : t.arbState = s.arbState := by
  obtain ⟨hact, harb⟩ := exec_tick_of_not_active ha h
  rw [State.arbState, harb, hact, State.arbState, ha]

/-- Whether the table has the protocol, as the statement asks it (R200, R244). -/
theorem any_id_eq_findProto (c : Config) (p : BitVec 8) :
    c.table.any (fun d => d.id == p) = (c.findProto p).isSome := List.findIdx?_isSome.symm

/-- No host operation answers the strobe `send_done` (R92). -/
theorem resp_ne_sendDone_of_host {i : Instr} {s t : State} (hi : HostOp i)
    (h : exec i s = .next t) : t.resp ≠ some 0x1000000000000008#64 := by
  have hok (x : BitVec 60) : some (response .ok x) ≠ some 0x1000000000000008#64 := fun heq => by
    have hcode := congrArg statusOf (Option.some.inj heq)
    rw [statusOf_response] at hcode
    exact absurd hcode (by decide)
  cases hi with
  | nop | rdStatus | setCb _ => cases h; exact hok _
  | getResult =>
    cases h
    split
    · exact hok _
    · exact fun heq => absurd (Option.some.inj heq) (by decide)

/-- During a send every switch is refused: there is no way to cancel it (R252). -/
theorem exec_switchOp_of_sending {i : Instr} {s : State} (hi : SwitchOp i) (hm : s.arb.mode = .tx)
    (ha : s.enc.active = true) :
    exec i s = .next { s with resp := some 0x2000000000000000#64 } := by
  obtain ⟨-, -, hsend⟩ := sendAcceptsOrRefuses
  rcases hi with ⟨p, a, c, n, rfl⟩ | ⟨p, rfl⟩ | rfl | ⟨v, rfl⟩
  · rw [hsend s p a c n hm, if_pos ha]
  · rw [exec_cfgTx_of_tx hm, if_pos ha]
  · exact exec_cfgRx_of_active ha
  · exact exec_restore_of_active ha v

/-- The state sending is left by the finishing tick only (R217, R252). -/
theorem arbState_of_sending {i : Instr} {s t : State} (hg : s.Good)
    (hs : s.arbState = (.tx, true)) (h : exec i s = .next t) :
    t.arbState = if t.resp = some 0x1000000000000008#64 then (.rx, false) else (.tx, true) := by
  obtain ⟨hm, ha⟩ := (arbState_eq_iff s _ _).mp hs
  rcases hostOp_or_tick_or_switchOp i with hi | ⟨b, rfl⟩ | hi
  · rw [if_neg (resp_ne_sendDone_of_host hi h), arbState_of_host hi h, hs]
  · rcases exec_tick_of_sending hg ha h with ⟨hact, harb, hresp⟩ | ⟨hact, harb, hresp⟩
    · rw [hresp, if_neg (by decide), State.arbState, harb, hact, hm]
    · rw [hresp, if_pos rfl, State.arbState, harb, hact]
  · cases (exec_switchOp_of_sending hi hm ha).symm.trans h
    rw [if_neg fun heq => absurd (Option.some.inj heq) (by decide)]
    exact hs

/-- Without a send in progress in mode TX a switch to send is refused (R201, R244, R252). -/
theorem exec_toSend_of_configured {i : Instr} {s : State}
    (hi : (∃ p a c n, i = .send p a c n) ∨ ∃ p, i = .cfgTx p) (hm : s.arb.mode = .tx)
    (ha : s.enc.active = false) :
    exec i s = .next { s with resp := some 0x3000000000000000#64 } := by
  obtain ⟨-, -, hsend⟩ := sendAcceptsOrRefuses
  have hn : ¬ s.enc.active = true := by simp [ha]
  rcases hi with ⟨p, a, c, n, rfl⟩ | ⟨p, rfl⟩
  · rw [hsend s p a c n hm, if_neg hn]
  · rw [exec_cfgTx_of_tx hm, if_neg hn]

/-- An accepted `SEND` in mode RX goes to sending, an unknown protocol nowhere (R200, R252). -/
theorem arbState_of_send {s t : State} {p : BitVec 8} {a : BitVec 16} {c : BitVec 32} {n : BitVec 4}
    (hs : s.arbState = (.rx, false)) (h : exec (.send p a c n) s = .next t) :
    t.arbState = if s.cfg.table.any (fun d => d.id == p) then (.tx, true) else (.rx, false) := by
  obtain ⟨hm, -⟩ := (arbState_eq_iff s _ _).mp hs
  rw [any_id_eq_findProto]
  rcases exec_send_cases h with ⟨htx, -⟩ | ⟨-, hfind, rfl⟩ | ⟨i, -, hfind, rfl⟩
  · exact absurd (hm.symm.trans htx) (by decide)
  · rw [hfind]
    exact hs
  · rw [hfind]
    rfl

/-- An accepted `CFG_TX` in mode RX goes to configured, an unknown protocol nowhere (R244, R252). -/
theorem arbState_of_cfgTx {s t : State} {p : BitVec 8}
    (hs : s.arbState = (.rx, false)) (h : exec (.cfgTx p) s = .next t) :
    t.arbState = if s.cfg.table.any (fun d => d.id == p) then (.tx, false) else (.rx, false) := by
  obtain ⟨hm, ha⟩ := (arbState_eq_iff s _ _).mp hs
  rw [any_id_eq_findProto]
  rcases exec_cfgTx_cases h with ⟨htx, -⟩ | ⟨-, hfind, rfl⟩ | ⟨i, r, -, hfind, rfl⟩
  · exact absurd (hm.symm.trans htx) (by decide)
  · rw [hfind]
    exact hs
  · rw [hfind]
    exact (arbState_eq_iff _ _ _).mpr ⟨rfl, ha⟩

/-- Without a send in progress a switch to receive goes to receiving (R243, R246, R252). -/
theorem arbState_of_switchToRx {s t : State} {v : TimerConfig} (ha : s.enc.active = false)
    (h : (s.enc.active = true ∧ t = refuse .refusedBusy s) ∨
      (s.enc.active = false ∧ t = respondOk (switchToRx v s))) : t.arbState = (.rx, false) := by
  rcases h with ⟨hact, -⟩ | ⟨-, rfl⟩
  · exact absurd (ha.symm.trans hact) (by decide)
  · exact (arbState_eq_iff _ _ _).mpr ⟨rfl, ha⟩

/-- Settles O23: state by state, one lemma for each operation that moves the arbiter. -/
theorem arbiterStateTable : Obligations.ArbiterStateTable := by
  intro i s hg
  obtain ⟨t, h⟩ := exec_of_good hg i
  refine ⟨t, h, arbState_ne_rx_active hg, fun hs => ?_,
    fun hs => ⟨arbState_of_sending hg hs h, fun hi => ?_⟩, fun hs => ⟨?_, fun hi => ?_⟩⟩
  all_goals obtain ⟨hm, ha⟩ := (arbState_eq_iff s _ _).mp hs
  · cases i with
    | nop | getResult | rdStatus | setCb _ =>
      exact (arbState_of_host (by constructor) h).trans hs
    | tick b => exact (arbState_of_tick ha h).trans hs
    | send p a c n => exact arbState_of_send hs h
    | cfgTx p => exact arbState_of_cfgTx hs h
    | cfgRx => exact arbState_of_switchToRx ha (exec_cfgRx_cases h)
    | restore v => exact arbState_of_switchToRx ha (exec_restore_cases h)
  · cases (exec_switchOp_of_sending hi hm ha).symm.trans h
    rfl
  · cases i with
    | nop | getResult | rdStatus | setCb _ =>
      exact (arbState_of_host (by constructor) h).trans hs
    | tick b => exact (arbState_of_tick ha h).trans hs
    | send p a c n =>
      cases (exec_toSend_of_configured (.inl ⟨p, a, c, n, rfl⟩) hm ha).symm.trans h
      exact hs
    | cfgTx p =>
      cases (exec_toSend_of_configured (.inr ⟨p, rfl⟩) hm ha).symm.trans h
      exact hs
    | cfgRx => exact arbState_of_switchToRx ha (exec_cfgRx_cases h)
    | restore v => exact arbState_of_switchToRx ha (exec_restore_cases h)
  · cases (exec_toSend_of_configured hi hm ha).symm.trans h
    rfl

end Sys2Proof.Machine

namespace Sys2Proof.Machine

/-! ## The host operations (R260 to R264) -/

theorem respondOk_eq (s : State) : respondOk s = { s with resp := some 0#64 } := by
  have hresp : response .ok 0#60 = 0#64 := by decide
  rw [respondOk, respond, hresp]

/-- Settles O13: the decoder gives the all-zero word to `NOP`, which only answers. -/
theorem nopAnswersOk : Obligations.NopAnswersOk :=
  ⟨decode_encode .nop, fun s => by rw [exec, execNop, respondOk_eq]⟩

/-- Settles O16: beside `cb_en` only the answer is written. -/
theorem setCbWritesCbEn : Obligations.SetCbWritesCbEn := fun s e => by
  rw [exec, execSetCb, respondOk_eq]

/-! ### GET_RESULT (R260) -/

/-- The answer OK with a record: its four fields one after the other below the status (R91). -/
theorem response_recordPayload (r : DecodedCommand) :
    response .ok (recordPayload r) = 0x0#4 ++ r.proto ++ r.addr ++ r.cmd ++ r.flags := by
  simp only [response, Status.code, recordPayload, BitVec.append_assoc, BitVec.cast_eq]

theorem exec_getResult_of_ready {s : State} (hr : s.ready = true) :
    exec .getResult s = .next { s with
      ready := false,
      resp := some (0x0#4 ++ s.res.proto ++ s.res.addr ++ s.res.cmd ++ s.res.flags) } := by
  rw [exec, execGetResult, if_pos hr, respond, response_recordPayload]

theorem exec_getResult_of_not_ready {s : State} (hr : s.ready = false) :
    exec .getResult s = .next { s with resp := some 0x1000000000000000#64 } := by
  have hresp : response .none 0#60 = 0x1000000000000000#64 := by decide
  rw [exec, execGetResult, if_neg (by simp [hr]), respond, hresp]

/-- A result is taken at most once: after `GET_RESULT` none is pending (R260). -/
theorem not_ready_of_getResult {s t : State} (h : exec .getResult s = .next t) :
    t.ready = false := by
  cases hr : s.ready with
  | true =>
    rw [exec_getResult_of_ready hr] at h
    cases h
    rfl
  | false =>
    rw [exec_getResult_of_not_ready hr] at h
    cases h
    exact hr

/-- Settles O14: `ready` decides between the record and NONE, and the first `GET_RESULT` clears it. -/
theorem getResultTakesTheResult : Obligations.GetResultTakesTheResult :=
  ⟨fun _ hr => exec_getResult_of_ready hr, fun _ hr => exec_getResult_of_not_ready hr,
    fun _ _ h => exec_getResult_of_not_ready (not_ready_of_getResult h)⟩

/-! ### RD_STATUS (R262) -/

theorem bit_eq_decide_tx (m : Mode) : m.bit = decide (m = .tx) := by
  cases m <;> rfl

/-- The answer of `RD_STATUS`: the status, 56 zeros, the four flags (R91, R262). -/
theorem response_statusPayload (s : State) :
    response .ok (statusPayload s) =
      0x0#4 ++ 0#56 ++ BitVec.ofBool s.cbEn ++ BitVec.ofBool (decide (s.arb.mode = .tx)) ++
        BitVec.ofBool s.enc.active ++ BitVec.ofBool s.ready := by
  simp only [response, Status.code, statusPayload, bit_eq_decide_tx, BitVec.append_assoc,
    BitVec.cast_eq]

/-- Settles O15: the flags are read as they stand; I1 puts every send in mode TX. -/
theorem rdStatusReadsFourBits : Obligations.RdStatusReadsFourBits := by
  refine ⟨fun s => ?_, fun s hinv ⟨hact, hrx⟩ => ?_⟩
  · rw [exec, execRdStatus, respond, response_statusPayload]
  · obtain ⟨-, henc, -⟩ := (inv_iff s).mp hinv
    rw [hrx] at henc
    exact absurd (hact.symm.trans henc.not_active_of_rx) (by decide)

end Sys2Proof.Machine

namespace Sys2Proof

/-! ## Exceptions, reset and hazards (60_exceptions.md, 70_reset_and_hazards.md) -/

/-- Settles O58: `sat_inc` is the minimum of the next count and 0xFFFF. -/
theorem satIncNeverWraps : Obligations.SatIncNeverWraps := by
  intro x
  rw [satInc_toNat_eq_min]
  split <;> omega

end Sys2Proof

namespace Sys2Proof.Machine

/-! ### Reset and waiting (R330, R332) -/

theorem step_of_reset {s : State} {rest : List Input} (h : s.input = .reset :: rest) :
    step s = .next (applyReset rest s) := by
  rw [step, stepInput, h]

theorem step_of_nothing {s : State} (hi : s.input = []) (hp : s.tickPending = none) :
    step s = .next s := by
  rw [step, stepInput, hi, hp]

/-- Settles O10: the reset input is taken first. -/
theorem stepAppliesReset : Obligations.StepAppliesReset := fun _ _ h => step_of_reset h

/-- Settles O12: no input, no tick, no change. -/
theorem stepWaitsForInput : Obligations.StepWaitsForInput := fun _ hi hp => step_of_nothing hi hp

/-! ### No step stops (R300, R240) -/

/-- A word runs to a next state from a good state: as its operation, or answered as illegal. -/
theorem runWord_of_good {s : State} (hg : s.Good) (w : Word) : ∃ t, runWord w s = .next t := by
  cases hd : decode w with
  | ok i =>
    obtain ⟨t, h⟩ := exec_of_good hg i
    exact ⟨t, (runWord_of_decode_ok hd s).trans h⟩
  | illegal e => exact ⟨_, runWord_of_decode_illegal hd s⟩

/-- Every step from a good state goes on: reset, the pending tick, a word, or nothing to do (R300). -/
theorem safe_of_good {s : State} (hg : s.Good) : Safe s := by
  by_cases hreset : ∃ rest, s.input = .reset :: rest
  · obtain ⟨rest, h⟩ := hreset
    exact ⟨_, step_of_reset h⟩
  · cases hp : s.tickPending with
    | some b =>
      have hg' : State.Good { s with tickPending := none } := hg
      obtain ⟨t, h⟩ := exec_of_good hg' (.tick b)
      exact ⟨t, (step_of_tickPending hp (not_exists.mp hreset)).trans h⟩
    | none =>
      cases hi : s.input with
      | nil => exact ⟨s, step_of_nothing hi hp⟩
      | cons x rest =>
        cases x with
        | reset => exact absurd ⟨rest, hi⟩ hreset
        | op w =>
          have hg' : State.Good { s with input := rest } := hg
          obtain ⟨t, h⟩ := runWord_of_good hg' w
          exact ⟨t, (step_of_op hp hi).trans h⟩

/-- A `TICK` answers OK or NONE, never a refusal (R92, R240). -/
theorem exec_tick_answers {b : Bool} {s t : State} (h : exec (.tick b) s = .next t) :
    ∃ r, t.resp = some r ∧ (statusOf r = 0x0#4 ∨ statusOf r = 0x1#4) := by
  obtain ⟨-, rfl⟩ := execTick_next h
  obtain ⟨st, p, hst, hresp⟩ := tickResponse_eq (tickOut b s).record
    (tickOut b s).dataComplete (tickOut b s).sendDone
  refine ⟨response st p, congrArg some hresp, ?_⟩
  rw [statusOf_response]
  rcases hst with rfl | rfl
  · exact .inl rfl
  · exact .inr rfl

/-- Settles O57: the invariants rule every fault out, and a tick's response has no refusing status. -/
theorem goodStatesNeverStop : Obligations.GoodStatesNeverStop := by
  refine ⟨fun s hg => safe_of_good hg, fun s b hg => ?_⟩
  obtain ⟨t, h⟩ := exec_of_good hg (.tick b)
  obtain ⟨r, hresp, hst⟩ := exec_tick_answers h
  exact ⟨t, r, h, hresp, hst⟩

/-! ### The values of timer_cfg and snap (R45, R333)

Two states that differ in `timer_cfg` and `snap` alone run alike. `State.setTimer` writes the two; each
rule of the decoder commutes with it, and of the other operations only `CFG_TX` answers one of them. -/

/-- The state with other values in `timer_cfg` and `snap`. -/
def State.setTimer (x y : TimerConfig) (s : State) : State :=
  { s with arb := { s.arb with timerCfg := x, snap := y } }

/-- A tick's outcome with other values in `timer_cfg` and `snap`. -/
def TickOut.setTimer (x y : TimerConfig) (o : TickOut) : TickOut :=
  { o with state := o.state.setTimer x y }

section
variable {x y : TimerConfig} {s : State}

@[simp] theorem setTimer_cfg : (s.setTimer x y).cfg = s.cfg := rfl
@[simp] theorem setTimer_dec : (s.setTimer x y).dec = s.dec := rfl
@[simp] theorem setTimer_decState : (s.setTimer x y).decState = s.decState := rfl

theorem finish_setTimer (o : TickOut) : (o.setTimer x y).finish = o.finish.setTimer x y := rfl

/-! #### The decoder's rules -/

/-- A rule that branches on what `setTimer` keeps commutes with it when both branches do. -/
theorem ite_setTimer {p : Prop} [Decidable p] {o₁ o₁' o₂ o₂' : TickOut}
    (h₁ : o₁' = o₁.setTimer x y) (h₂ : o₂' = o₂.setTimer x y) :
    (if p then o₁' else o₂') = (if p then o₁ else o₂).setTimer x y := by
  rw [h₁, h₂, apply_ite (TickOut.setTimer x y)]

theorem complete_setTimer : complete (s.setTimer x y) = (complete s).setTimer x y :=
  ite_setTimer (ite_setTimer rfl rfl) rfl

theorem idleSpace_setTimer : idleSpace (s.setTimer x y) = (idleSpace s).setTimer x y :=
  ite_setTimer rfl (ite_setTimer rfl rfl)

theorem hdrSpaceTick_setTimer : hdrSpaceTick (s.setTimer x y) = (hdrSpaceTick s).setTimer x y :=
  ite_setTimer rfl rfl

theorem hdrMarkTick_setTimer : hdrMarkTick (s.setTimer x y) = (hdrMarkTick s).setTimer x y := by
  simp only [hdrMarkTick, setTimer_dec, setTimer_cfg]
  split
  · rfl
  · exact ite_setTimer rfl rfl

theorem bitSpaceOn_setTimer (d : Desc) :
    bitSpaceOn d (s.setTimer x y) = (bitSpaceOn d s).setTimer x y :=
  ite_setTimer rfl (ite_setTimer (complete_setTimer (s := { s with dec := _ })) rfl)

theorem bitSpaceEnd_setTimer (d : Desc) :
    bitSpaceEnd d (s.setTimer x y) = (bitSpaceEnd d s).setTimer x y := by
  simp only [bitSpaceEnd, setTimer_dec]
  split
  · rfl
  · exact ite_setTimer rfl rfl

theorem bitTick_setTimer (m : Bool) (d : Desc) :
    bitTick m d (s.setTimer x y) = (bitTick m d s).setTimer x y :=
  have markOn : bitMarkOn d (s.setTimer x y) = (bitMarkOn d s).setTimer x y := ite_setTimer rfl rfl
  have markEnd : bitMarkEnd d (s.setTimer x y) = (bitMarkEnd d s).setTimer x y :=
    ite_setTimer rfl rfl
  ite_setTimer (ite_setTimer (bitSpaceEnd_setTimer d) (bitSpaceOn_setTimer d))
    (ite_setTimer markOn markEnd)

theorem stopTick_setTimer (m : Bool) (d : Desc) :
    stopTick m d (s.setTimer x y) = (stopTick m d s).setTimer x y :=
  ite_setTimer (ite_setTimer rfl rfl) (ite_setTimer complete_setTimer rfl)

theorem manPair_setTimer (d : Desc) :
    manPair d (s.setTimer x y) = (manPair d s).setTimer x y := by
  simp only [manPair, setTimer_dec]
  split
  · rfl
  · split <;> rfl

theorem manPairVirtual_setTimer (d : Desc) :
    manPairVirtual d (s.setTimer x y) = (manPairVirtual d s).setTimer x y := by
  simp only [manPairVirtual, setTimer_dec]
  split
  · rfl
  · exact ite_setTimer (complete_setTimer (s := { s with dec := _ })) rfl

theorem manSpaceOn_setTimer (d : Desc) :
    manSpaceOn d (s.setTimer x y) = (manSpaceOn d s).setTimer x y :=
  ite_setTimer rfl (manPairVirtual_setTimer (s := { s with dec := _ }) d)

theorem manTick_setTimer (m : Bool) (d : Desc) :
    manTick m d (s.setTimer x y) = (manTick m d s).setTimer x y :=
  have markOn : manMarkOn d (s.setTimer x y) = (manMarkOn d s).setTimer x y := ite_setTimer rfl rfl
  have markEnd : manMarkEnd d (s.setTimer x y) = (manMarkEnd d s).setTimer x y :=
    ite_setTimer rfl rfl
  ite_setTimer (ite_setTimer (manPair_setTimer d) (manSpaceOn_setTimer d))
    (ite_setTimer markOn markEnd)

theorem decSample_setTimer (m : Bool) :
    decSample m (s.setTimer x y) = (decSample m s).setTimer x y := by
  simp only [decSample, setTimer_decState]
  split
  · exact ite_setTimer rfl idleSpace_setTimer
  · exact ite_setTimer hdrMarkTick_setTimer hdrSpaceTick_setTimer
  · exact ite_setTimer (manTick_setTimer m _) (bitTick_setTimer m _)
  · exact ite_setTimer (manTick_setTimer m _) (stopTick_setTimer m _)

/-- The decoder neither reads nor writes the timer registers (R250). -/
theorem decTick_setTimer (b : Bool) :
    decTick b (s.setTimer x y) = (decTick b s).setTimer x y :=
  ite_setTimer rfl (decSample_setTimer (s := countRep s) (b == s.cfg.activeIn))

end

/-! #### The operations -/

/-- The branches may leave different values in `timer_cfg`. -/
theorem exists_ite_setTimer {y : TimerConfig} {p : Prop} [Decidable p] {o₁ o₁' o₂ o₂' : TickOut}
    (h₁ : ∃ x, o₁' = o₁.setTimer x y) (h₂ : ∃ x, o₂' = o₂.setTimer x y) :
    ∃ x, (if p then o₁' else o₂') = (if p then o₁ else o₂).setTimer x y := by
  split
  · exact h₁
  · exact h₂

/-- An encoder tick reads `snap` only to restore `timer_cfg` at the end of a send (R217). -/
theorem encTick_setTimer (x y : TimerConfig) (s : State) :
    ∃ x', encTick (s.setTimer x y) = (encTick s).setTimer x' y :=
  exists_ite_setTimer ⟨x, rfl⟩ (exists_ite_setTimer ⟨y, rfl⟩ ⟨x, rfl⟩)

theorem exec_tick_setTimer {b : Bool} {s t : State} (x y : TimerConfig)
    (h : exec (.tick b) s = .next t) :
    ∃ x' y', exec (.tick b) (s.setTimer x y) = .next (t.setTimer x' y') := by
  obtain ⟨hfault, -⟩ := execTick_next h
  rcases exec_tick_cases h with ⟨hm, rfl⟩ | ⟨hm, rfl⟩
  · rw [tickFault, hm] at hfault
    obtain ⟨x', htick⟩ := encTick_setTimer x y s
    refine ⟨x', y, ?_⟩
    rw [exec_tick_of_tx (s := s.setTimer x y) hm hfault, htick, finish_setTimer]
  · rw [tickFault, hm] at hfault
    refine ⟨x, y, ?_⟩
    rw [exec_tick_of_rx (s := s.setTimer x y) hm hfault, decTick_setTimer, finish_setTimer]

theorem exec_host_setTimer {i : Instr} {s t : State} (hi : HostOp i) (x y : TimerConfig)
    (h : exec i s = .next t) : exec i (s.setTimer x y) = .next (t.setTimer x y) := by
  cases hi with
  | nop | rdStatus | setCb _ => cases h; rfl
  | getResult =>
    cases hr : s.ready with
    | true =>
      cases (exec_getResult_of_ready hr).symm.trans h
      exact exec_getResult_of_ready (s := s.setTimer x y) hr
    | false =>
      cases (exec_getResult_of_not_ready hr).symm.trans h
      exact exec_getResult_of_not_ready (s := s.setTimer x y) hr

theorem exec_send_of_tx {s : State} (hm : s.arb.mode = .tx) (p : BitVec 8) (a : BitVec 16)
    (c : BitVec 32) (n : BitVec 4) :
    exec (.send p a c n) s = .next (refuse (txRefusal s) s) := by
  rw [exec, execSend, if_pos hm]

theorem exec_send_of_findProto_none {s : State} {p : BitVec 8} (hm : s.arb.mode = .rx)
    (hfind : s.cfg.findProto p = none) (a : BitVec 16) (c : BitVec 32) (n : BitVec 4) :
    exec (.send p a c n) s = .next (refuse .refusedProto s) := by
  simp only [exec, execSend, hm, reduceCtorEq, if_false, hfind]

/-- A `SEND` is decided by `mode` and the table; accepted, it moves `timer_cfg` to `snap` (R200, R245). -/
theorem exec_send_setTimer {p : BitVec 8} {a : BitVec 16} {c : BitVec 32} {n : BitVec 4}
    {s t : State} (x y : TimerConfig) (h : exec (.send p a c n) s = .next t) :
    ∃ x' y', exec (.send p a c n) (s.setTimer x y) = .next (t.setTimer x' y') := by
  cases hm : s.arb.mode with
  | tx =>
    cases (exec_send_of_tx hm p a c n).symm.trans h
    exact ⟨x, y, exec_send_of_tx (s := s.setTimer x y) hm p a c n⟩
  | rx =>
    cases hfind : s.cfg.findProto p with
    | none =>
      cases (exec_send_of_findProto_none hm hfind a c n).symm.trans h
      exact ⟨x, y, exec_send_of_findProto_none (s := s.setTimer x y) hm hfind a c n⟩
    | some i =>
      cases (exec_send_of_findProto hm hfind a c n).symm.trans h
      exact ⟨_, x, exec_send_of_findProto (s := s.setTimer x y) hm hfind a c n⟩

theorem exec_cfgRx_setTimer {s t : State} (x y : TimerConfig) (h : exec .cfgRx s = .next t) :
    ∃ x', exec .cfgRx (s.setTimer x y) = .next (t.setTimer x' y) := by
  cases ha : s.enc.active with
  | true =>
    cases (exec_cfgRx_of_active ha).symm.trans h
    exact ⟨x, exec_cfgRx_of_active (s := s.setTimer x y) ha⟩
  | false =>
    cases (exec_cfgRx_of_not_active ha).symm.trans h
    exact ⟨_, exec_cfgRx_of_not_active (s := s.setTimer x y) ha⟩

theorem exec_restore_setTimer {v : BitVec 32} {s t : State} (x y : TimerConfig)
    (h : exec (.restore v) s = .next t) :
    ∃ x', exec (.restore v) (s.setTimer x y) = .next (t.setTimer x' y) := by
  cases ha : s.enc.active with
  | true =>
    cases (exec_restore_of_active ha v).symm.trans h
    exact ⟨x, exec_restore_of_active (s := s.setTimer x y) ha v⟩
  | false =>
    cases (exec_restore_of_not_active ha v).symm.trans h
    exact ⟨v, exec_restore_of_not_active (s := s.setTimer x y) ha v⟩

/-- `CFG_TX` answers `timer_cfg` when it is accepted, with status OK whatever the value (R244). -/
theorem exec_cfgTx_setTimer {p : BitVec 8} {s t : State} (x y : TimerConfig)
    (h : exec (.cfgTx p) s = .next t) :
    ∃ x' y' r r', t.resp = some r ∧
      exec (.cfgTx p) (s.setTimer x y) = .next (respond r' (t.setTimer x' y')) ∧
      statusOf r' = statusOf r := by
  cases hm : s.arb.mode with
  | tx =>
    cases (exec_cfgTx_of_tx hm p).symm.trans h
    exact ⟨x, y, _, _, rfl, exec_cfgTx_of_tx (s := s.setTimer x y) hm p, rfl⟩
  | rx =>
    cases hfind : s.cfg.findProto p with
    | none =>
      cases (exec_cfgTx_of_findProto_none hm hfind).symm.trans h
      exact ⟨x, y, _, _, rfl, exec_cfgTx_of_findProto_none (s := s.setTimer x y) hm hfind, rfl⟩
    | some i =>
      cases (exec_cfgTx_of_findProto hm hfind).symm.trans h
      refine ⟨_, x, _, _, rfl, exec_cfgTx_of_findProto (s := s.setTimer x y) hm hfind, ?_⟩
      rw [← response_snapshot, ← response_snapshot, statusOf_response, statusOf_response]

/-- Settles O54: two states that differ in `timer_cfg` and `snap` run alike, but for those and the answer
of `CFG_TX`. -/
theorem timerValuesDoNotMatter : Obligations.TimerValuesDoNotMatter := by
  intro i s t x y h
  obtain ⟨-, -, -, r, hresp⟩ := exec_frame h
  have alike (hrun : ∃ x' y', exec i (s.setTimer x y) = .next (t.setTimer x' y')) :
      ∃ x' y' r r', t.resp = some r ∧
        exec i (s.setTimer x y) = .next (respond r' (t.setTimer x' y')) ∧
        statusOf r' = statusOf r ∧ ((∀ p, i ≠ .cfgTx p) → r' = r) := by
    obtain ⟨x', y', heq⟩ := hrun
    have hkept : respond r (t.setTimer x' y') = t.setTimer x' y' := by rw [respond, ← hresp]; rfl
    exact ⟨x', y', r, r, hresp, by rw [hkept, heq], rfl, fun _ => rfl⟩
  cases i with
  | nop | getResult | rdStatus | setCb _ =>
    exact alike ⟨x, y, exec_host_setTimer (by constructor) x y h⟩
  | tick b => exact alike (exec_tick_setTimer x y h)
  | send p a c n => exact alike (exec_send_setTimer x y h)
  | cfgRx =>
    obtain ⟨x', heq⟩ := exec_cfgRx_setTimer x y h
    exact alike ⟨x', y, heq⟩
  | restore v =>
    obtain ⟨x', heq⟩ := exec_restore_setTimer x y h
    exact alike ⟨x', y, heq⟩
  | cfgTx p =>
    obtain ⟨x', y', r₀, r', hresp₀, heq, hst⟩ := exec_cfgTx_setTimer x y h
    exact ⟨x', y', r₀, r', hresp₀, heq, hst, fun hne => absurd rfl (hne p)⟩

end Sys2Proof.Machine
